-- ==== Sys2Proof/Word.lean ====
section
/-! DEFINITION. The words of the machine: bytes, 16-bit words, 24-bit physical addresses, and the two operand widths. -/

namespace Sys2Proof

/-- An 8-bit byte (20_memory.md R70). -/
abbrev Byte := BitVec 8

/-- A 16-bit word (00_scope.md R7). -/
abbrev Word := BitVec 16

/-- A 24-bit physical address, pins A23 to A0 (20_memory.md R70). -/
abbrev Addr := BitVec 24

/-- The operand width of the `w` bit: byte for `w = 0`, word for `w = 1` (30_encoding.md R152). -/
inductive Width where
  | byte
  | word
  deriving DecidableEq, Repr

/-- `N` of 41_arithmetic.md R240: 8 bits for a byte operand, 16 for a word. -/
abbrev Width.bits : Width → Nat
  | .byte => 8
  | .word => 16

/-- `n` of 43_string.md R310: 1 byte or 2 bytes. -/
abbrev Width.bytes : Width → Nat
  | .byte => 1
  | .word => 2

/-- Bits 7 to 0 of a word, the byte at the lower address (20_memory.md R71). -/
abbrev lowByte (v : Word) : Byte := v.extractLsb' 0 8

/-- Bits 15 to 8 of a word, the byte at the higher address (20_memory.md R71). -/
abbrev highByte (v : Word) : Byte := v.extractLsb' 8 8

/-- `concat(high, low)` of 00_scope.md R10. -/
abbrev concatBytes (high low : Byte) : Word := high ++ low

/-- `sext_16` of a byte (00_scope.md R10). -/
abbrev signExtend16 (v : Byte) : Word := v.signExtend 16

/-- `zext_16` of a byte (00_scope.md R10). -/
abbrev zeroExtend16 (v : Byte) : Word := v.setWidth 16

/-- `zext_24` of an offset (00_scope.md R10). -/
abbrev zeroExtend24 (v : Word) : Addr := v.setWidth 24

end Sys2Proof
end

