-- ==== Sys2Proof/Config.lean ====
section
/-! DEFINITION. What the system around the chip or the implementation fixes, and the free values: opaque constants
with no body, so that no proof can see what they are. -/

namespace Sys2Proof.Config

/-- The n-th free word of a run (00_scope.md R15, `undef_16`). DESIGN CHOICE, log entry 17. -/
opaque freeWord : Nat → Word

/-- The n-th free byte of a run (00_scope.md R15, `undef_8`). DESIGN CHOICE, log entry 17. -/
opaque freeByte : Nat → Byte

/-- The n-th free bit of a run (00_scope.md R15, `undef_1`). DESIGN CHOICE, log entry 17. -/
opaque freeBit : Nat → Bool

/-- Whether the ESC with this TTT and LLL waits for BUSY to become inactive (46_processor_control.md R433,
"some ESC instructions"). Log entry 25. -/
opaque escWaitsForBusy : BitVec 3 → BitVec 3 → Bool

/-- Whether the ESC with this TTT and LLL tests the ERROR input (46_processor_control.md R433). Log entry 25. -/
opaque escTestsError : BitVec 3 → BitVec 3 → Bool

/-- Whether the memory operand of the ESC with this TTT and LLL is written by the processor extension
(46_processor_control.md R435, "read/write status of the instruction"). Log entry 25. -/
opaque escWritesMemory : BitVec 3 → BitVec 3 → Bool

/-- `SS_LOAD_INHIBITS_INTERRUPTS`, OPEN in 92_eei_decisions.md D23. Log entry 16. -/
opaque ssLoadInhibitsInterrupts : Bool

/-- `STI_INHIBITS_ONE_INSTRUCTION`, OPEN in 92_eei_decisions.md D24. Log entry 16. -/
opaque stiInhibitsOneInstruction : Bool

/-- Whether the single-step trap is taken after each iteration of a repeated string instruction, or only after the last
(43_string.md R321, "may be taken"). DESIGN CHOICE, log entry 47. -/
opaque stepsEachIteration : Bool

/-- `MAX_INSN_LEN`, the value 10 of 92_eei_decisions.md D14. Log entry 9. -/
def maxInsnLen : Nat := 10

/-- `PREFETCH_WINDOW`, the bound 36 of 92_eei_decisions.md D7. Log entry 13. -/
def prefetchWindow : Nat := 36

/-- What a read of a location where nothing is placed returns (93_implementation_defined.md U18), for each count of
fetches and events and each location. Log entry 3. -/
opaque unpopulated : Nat → Nat → Byte

end Sys2Proof.Config
end

