-- ==== Sys2Proof/Syntax.lean ====
section
/-! DEFINITION. The instructions of the 80C286, one constructor for each mnemonic of the opcode table, with their
operand forms (30_encoding.md). -/

namespace Sys2Proof

/-- A register field (30_encoding.md R153): the number `i` of `reg(w, i)`. -/
abbrev Reg := BitVec 3

/-- The `d` bit of 30_encoding.md R152: which of r/m and reg is the destination. -/
inductive Dir where
  | toRm
  | toReg
  deriving DecidableEq, Repr

/-- The segment register field of 30_encoding.md R154. -/
inductive SReg where
  | es
  | cs
  | ss
  | ds
  deriving DecidableEq, Repr

/-- A memory operand of the mod reg r/m byte (30_encoding.md R155 to R157): by `r/m` with no displacement, with an
8-bit displacement, with a 16-bit displacement, or the direct address. -/
inductive MemOp where
  | base (rm : Reg)
  | base8 (rm : Reg) (disp : Byte)
  | base16 (rm : Reg) (disp : Word)
  | direct (disp : Word)
  deriving DecidableEq, Repr

/-- The r/m operand: a register for `mod = 11`, memory otherwise (30_encoding.md R155). -/
inductive Rm where
  | reg (r : Reg)
  | mem (m : MemOp)
  deriving DecidableEq, Repr

/-- An immediate of the operand's width (30_encoding.md R162). -/
inductive Imm where
  | byte (v : Byte)
  | word (v : Word)
  deriving DecidableEq, Repr

/-- The immediate of the group 0x80 to 0x83 (30_encoding.md R152): `byte82` says whether a byte form is spelled 0x82
instead of 0x80, `sx` is the sign-extended byte of 0x83. -/
inductive AluImm where
  | byte (byte82 : Bool) (v : Byte)
  | word (v : Word)
  | sx (v : Byte)
  deriving DecidableEq, Repr

/-- The immediate of PUSH and of the three-operand IMUL: a word, or a sign-extended byte (40_data_transfer.md R212,
41_arithmetic.md R269). -/
inductive SxImm where
  | word (v : Word)
  | sx (v : Byte)
  deriving DecidableEq, Repr

/-- The undefined encodings of 30_encoding.md R167: a one-byte opcode, a second byte after 0x0F, a mod reg r/m byte
after a one-byte opcode, and one after 0x0F and a second byte. -/
inductive Undefined where
  | oneByte (op : Byte)
  | page0F (op2 : Byte)
  | group (op modrm : Byte)
  | group0F (op2 modrm : Byte)
  deriving DecidableEq, Repr

/-- The instructions, one constructor for each mnemonic of the opcode table (30_encoding.md R179). -/
inductive Instr where
  /-- MOV r/m, reg. 40_data_transfer.md R201. -/
  | movRmReg (w : Width) (rm : Rm) (r : Reg)
  /-- MOV reg, r/m. R202. -/
  | movRegRm (w : Width) (r : Reg) (rm : Rm)
  /-- MOV r/m, imm. R203. -/
  | movRmImm (rm : Rm) (i : Imm)
  /-- MOV reg, imm. R204. -/
  | movRegImm (r : Reg) (i : Imm)
  /-- MOV AL/AX, [off]. R205. -/
  | movAccMem (w : Width) (off : Word)
  /-- MOV [off], AL/AX. R206. -/
  | movMemAcc (w : Width) (off : Word)
  /-- MOV sreg, r/m. R207. -/
  | movSregRm (sr : SReg) (rm : Rm)
  /-- MOV r/m, sreg. R208. -/
  | movRmSreg (rm : Rm) (sr : SReg)
  /-- PUSH r/m. R209. -/
  | pushRm (rm : Rm)
  /-- PUSH reg. R210. -/
  | pushReg (r : Reg)
  /-- PUSH sreg. R211. -/
  | pushSreg (sr : SReg)
  /-- PUSH imm. R212. -/
  | pushImm (i : SxImm)
  /-- PUSHA. R213. -/
  | pusha
  /-- POP r/m. R214. -/
  | popRm (rm : Rm)
  /-- POP reg. R215. -/
  | popReg (r : Reg)
  /-- POP sreg. R216. -/
  | popSreg (sr : SReg)
  /-- POPA. R217. -/
  | popa
  /-- XCHG r/m, reg. R218. -/
  | xchgRmReg (w : Width) (rm : Rm) (r : Reg)
  /-- XCHG AX, reg. R219. -/
  | xchgAx (r : Reg)
  /-- NOP, the byte 0x90. R219. -/
  | nop
  /-- IN acc, port. R220. -/
  | inPort (w : Width) (port : Byte)
  /-- IN acc, DX. R221. -/
  | inDx (w : Width)
  /-- OUT port, acc. R222. -/
  | outPort (w : Width) (port : Byte)
  /-- OUT DX, acc. R223. -/
  | outDx (w : Width)
  /-- XLAT. R224. -/
  | xlat
  /-- LEA reg, mem. R225. -/
  | lea (r : Reg) (m : MemOp)
  /-- LDS reg, mem. R226. -/
  | lds (r : Reg) (m : MemOp)
  /-- LES reg, mem. R227. -/
  | les (r : Reg) (m : MemOp)
  /-- LAHF. R228. -/
  | lahf
  /-- SAHF. R229. -/
  | sahf
  /-- PUSHF. R230. -/
  | pushf
  /-- POPF. R236. -/
  | popf
  /-- ADD between r/m and reg. R243. -/
  | addRmReg (w : Width) (d : Dir) (rm : Rm) (r : Reg)
  /-- ADD r/m, imm. R244. -/
  | addRmImm (rm : Rm) (i : AluImm)
  /-- ADD AL/AX, imm. R245. -/
  | addAccImm (i : Imm)
  /-- ADC between r/m and reg. R246. -/
  | adcRmReg (w : Width) (d : Dir) (rm : Rm) (r : Reg)
  /-- ADC r/m, imm. R247. -/
  | adcRmImm (rm : Rm) (i : AluImm)
  /-- ADC AL/AX, imm. R248. -/
  | adcAccImm (i : Imm)
  /-- INC r/m. R249. -/
  | incRm (w : Width) (rm : Rm)
  /-- INC reg. R250. -/
  | incReg (r : Reg)
  /-- SUB between r/m and reg. R251. -/
  | subRmReg (w : Width) (d : Dir) (rm : Rm) (r : Reg)
  /-- SUB r/m, imm. R252. -/
  | subRmImm (rm : Rm) (i : AluImm)
  /-- SUB AL/AX, imm. R253. -/
  | subAccImm (i : Imm)
  /-- SBB between r/m and reg. R254. -/
  | sbbRmReg (w : Width) (d : Dir) (rm : Rm) (r : Reg)
  /-- SBB r/m, imm. R255. -/
  | sbbRmImm (rm : Rm) (i : AluImm)
  /-- SBB AL/AX, imm. R256. -/
  | sbbAccImm (i : Imm)
  /-- DEC r/m. R257. -/
  | decRm (w : Width) (rm : Rm)
  /-- DEC reg. R258. -/
  | decReg (r : Reg)
  /-- CMP between r/m and reg. R259. -/
  | cmpRmReg (w : Width) (d : Dir) (rm : Rm) (r : Reg)
  /-- CMP r/m, imm. R260. -/
  | cmpRmImm (rm : Rm) (i : AluImm)
  /-- CMP AL/AX, imm. R261. -/
  | cmpAccImm (i : Imm)
  /-- NEG r/m. R262. -/
  | negRm (w : Width) (rm : Rm)
  /-- AAA. R263. -/
  | aaa
  /-- DAA. R264. -/
  | daa
  /-- AAS. R265. -/
  | aas
  /-- DAS. R266. -/
  | das
  /-- MUL r/m. R267. -/
  | mulRm (w : Width) (rm : Rm)
  /-- IMUL r/m. R268. -/
  | imulRm (w : Width) (rm : Rm)
  /-- IMUL reg, r/m, imm. R269. -/
  | imulRegRmImm (r : Reg) (rm : Rm) (i : SxImm)
  /-- DIV r/m. R270. -/
  | divRm (w : Width) (rm : Rm)
  /-- IDIV r/m. R271. -/
  | idivRm (w : Width) (rm : Rm)
  /-- AAM. R272. -/
  | aam
  /-- AAD. R273. -/
  | aad
  /-- CBW. R274. -/
  | cbw
  /-- CWD. R275. -/
  | cwd
  /-- AND between r/m and reg. R282. -/
  | andRmReg (w : Width) (d : Dir) (rm : Rm) (r : Reg)
  /-- AND r/m, imm. R283. -/
  | andRmImm (rm : Rm) (i : AluImm)
  /-- AND AL/AX, imm. R284. -/
  | andAccImm (i : Imm)
  /-- TEST r/m, reg. R285. -/
  | testRmReg (w : Width) (rm : Rm) (r : Reg)
  /-- TEST r/m, imm. R286. -/
  | testRmImm (rm : Rm) (i : Imm)
  /-- TEST AL/AX, imm. R287. -/
  | testAccImm (i : Imm)
  /-- OR between r/m and reg. R288. -/
  | orRmReg (w : Width) (d : Dir) (rm : Rm) (r : Reg)
  /-- OR r/m, imm. R289. -/
  | orRmImm (rm : Rm) (i : AluImm)
  /-- OR AL/AX, imm. R290. -/
  | orAccImm (i : Imm)
  /-- XOR between r/m and reg. R291. -/
  | xorRmReg (w : Width) (d : Dir) (rm : Rm) (r : Reg)
  /-- XOR r/m, imm. R292. -/
  | xorRmImm (rm : Rm) (i : AluImm)
  /-- XOR AL/AX, imm. R293. -/
  | xorAccImm (i : Imm)
  /-- NOT r/m. R294. -/
  | notRm (w : Width) (rm : Rm)
  /-- ROL r/m, 1. R296, R295. -/
  | rolRm1 (w : Width) (rm : Rm)
  /-- ROL r/m, CL. R296, R295. -/
  | rolRmCl (w : Width) (rm : Rm)
  /-- ROL r/m, imm8. R296, R295. -/
  | rolRmImm (w : Width) (rm : Rm) (count : Byte)
  /-- ROR r/m, 1. R297, R295. -/
  | rorRm1 (w : Width) (rm : Rm)
  /-- ROR r/m, CL. R297, R295. -/
  | rorRmCl (w : Width) (rm : Rm)
  /-- ROR r/m, imm8. R297, R295. -/
  | rorRmImm (w : Width) (rm : Rm) (count : Byte)
  /-- RCL r/m, 1. R298, R295. -/
  | rclRm1 (w : Width) (rm : Rm)
  /-- RCL r/m, CL. R298, R295. -/
  | rclRmCl (w : Width) (rm : Rm)
  /-- RCL r/m, imm8. R298, R295. -/
  | rclRmImm (w : Width) (rm : Rm) (count : Byte)
  /-- RCR r/m, 1. R299, R295. -/
  | rcrRm1 (w : Width) (rm : Rm)
  /-- RCR r/m, CL. R299, R295. -/
  | rcrRmCl (w : Width) (rm : Rm)
  /-- RCR r/m, imm8. R299, R295. -/
  | rcrRmImm (w : Width) (rm : Rm) (count : Byte)
  /-- SHL_SAL r/m, 1. R300, R295. -/
  | shlRm1 (w : Width) (rm : Rm)
  /-- SHL_SAL r/m, CL. R300, R295. -/
  | shlRmCl (w : Width) (rm : Rm)
  /-- SHL_SAL r/m, imm8. R300, R295. -/
  | shlRmImm (w : Width) (rm : Rm) (count : Byte)
  /-- SHR r/m, 1. R301, R295. -/
  | shrRm1 (w : Width) (rm : Rm)
  /-- SHR r/m, CL. R301, R295. -/
  | shrRmCl (w : Width) (rm : Rm)
  /-- SHR r/m, imm8. R301, R295. -/
  | shrRmImm (w : Width) (rm : Rm) (count : Byte)
  /-- SAR r/m, 1. R302, R295. -/
  | sarRm1 (w : Width) (rm : Rm)
  /-- SAR r/m, CL. R302, R295. -/
  | sarRmCl (w : Width) (rm : Rm)
  /-- SAR r/m, imm8. R302, R295. -/
  | sarRmImm (w : Width) (rm : Rm) (count : Byte)
  /-- MOVS. R311. -/
  | movs (w : Width)
  /-- CMPS. R312. -/
  | cmps (w : Width)
  /-- SCAS. R313. -/
  | scas (w : Width)
  /-- LODS. R314. -/
  | lods (w : Width)
  /-- STOS. R315. -/
  | stos (w : Width)
  /-- INS. R316. -/
  | ins (w : Width)
  /-- OUTS. R317. -/
  | outs (w : Width)
  /-- the prefix 0xF3. R320. -/
  | rep
  /-- the prefix 0xF2. R320. -/
  | repne
  /-- JMP short. R331. -/
  | jmpShort (disp : Byte)
  /-- JMP near. R332. -/
  | jmpNear (disp : Word)
  /-- JMP r/m. R333. -/
  | jmpRm (rm : Rm)
  /-- JMP far direct. R334, R382. -/
  | jmpFar (off sel : Word)
  /-- JMP far indirect. R335, R382. -/
  | jmpFarMem (m : MemOp)
  /-- CALL near. R336. -/
  | callNear (disp : Word)
  /-- CALL r/m. R337. -/
  | callRm (rm : Rm)
  /-- CALL far direct. R338, R383. -/
  | callFar (off sel : Word)
  /-- CALL far indirect. R339, R383. -/
  | callFarMem (m : MemOp)
  /-- JO. R341. -/
  | jo (disp : Byte)
  /-- JNO. R342. -/
  | jno (disp : Byte)
  /-- JB_JNAE. R343. -/
  | jb (disp : Byte)
  /-- JNB_JAE. R344. -/
  | jnb (disp : Byte)
  /-- JE_JZ. R345. -/
  | je (disp : Byte)
  /-- JNE_JNZ. R346. -/
  | jne (disp : Byte)
  /-- JBE_JNA. R347. -/
  | jbe (disp : Byte)
  /-- JNBE_JA. R348. -/
  | jnbe (disp : Byte)
  /-- JS. R349. -/
  | js (disp : Byte)
  /-- JNS. R350. -/
  | jns (disp : Byte)
  /-- JP_JPE. R351. -/
  | jp (disp : Byte)
  /-- JNP_JPO. R352. -/
  | jnp (disp : Byte)
  /-- JL_JNGE. R353. -/
  | jl (disp : Byte)
  /-- JNL_JGE. R354. -/
  | jnl (disp : Byte)
  /-- JLE_JNG. R355. -/
  | jle (disp : Byte)
  /-- JNLE_JG. R356. -/
  | jnle (disp : Byte)
  /-- LOOP. R357. -/
  | loop (disp : Byte)
  /-- LOOPZ. R358. -/
  | loopz (disp : Byte)
  /-- LOOPNZ. R359. -/
  | loopnz (disp : Byte)
  /-- JCXZ. R360. -/
  | jcxz (disp : Byte)
  /-- RET near. R361. -/
  | retNear
  /-- RET imm16 near. R362. -/
  | retNearImm (n : Word)
  /-- RETF. R363, R396. -/
  | retFar
  /-- RETF imm16. R364, R396. -/
  | retFarImm (n : Word)
  /-- ENTER. R365. -/
  | enter (size : Word) (level : Byte)
  /-- LEAVE. R366. -/
  | leave
  /-- BOUND. R367. -/
  | bound (r : Reg) (m : MemOp)
  /-- INT n. R368. -/
  | intN (v : Byte)
  /-- INT 3. R369. -/
  | int3
  /-- INTO. R370. -/
  | into
  /-- IRET. R371, R403, R404. -/
  | iret
  /-- CLC. R421. -/
  | clc
  /-- CMC. R422. -/
  | cmc
  /-- STC. R423. -/
  | stc
  /-- CLD. R424. -/
  | cld
  /-- STD. R425. -/
  | std
  /-- CLI. R426. -/
  | cli
  /-- STI. R427. -/
  | sti
  /-- HLT. R428. -/
  | hlt
  /-- the prefix 0xF0. R431. -/
  | lock
  /-- WAIT. R432. -/
  | wait
  /-- ESC. R433. -/
  | esc (ttt lll : BitVec 3) (rm : Rm)
  /-- CLTS. R434. -/
  | clts
  /-- the segment override prefixes. R436. -/
  | segOverride (sr : SReg)
  /-- LGDT. R440. -/
  | lgdt (m : MemOp)
  /-- SGDT. R441. -/
  | sgdt (m : MemOp)
  /-- LIDT. R442. -/
  | lidt (m : MemOp)
  /-- SIDT. R443. -/
  | sidt (m : MemOp)
  /-- LLDT. R444. -/
  | lldt (rm : Rm)
  /-- SLDT. R445. -/
  | sldt (rm : Rm)
  /-- LTR. R446. -/
  | ltr (rm : Rm)
  /-- STR. R447. -/
  | str (rm : Rm)
  /-- LMSW. R448. -/
  | lmsw (rm : Rm)
  /-- SMSW. R449. -/
  | smsw (rm : Rm)
  /-- VERR. R450. -/
  | verr (rm : Rm)
  /-- VERW. R451. -/
  | verw (rm : Rm)
  /-- LAR. R452. -/
  | lar (r : Reg) (rm : Rm)
  /-- LSL. R453. -/
  | lsl (r : Reg) (rm : Rm)
  /-- ARPL. R454. -/
  | arpl (rm : Rm) (r : Reg)
  /-- every encoding of 30_encoding.md R167. -/
  | undefined (u : Undefined)
  deriving DecidableEq, Repr

end Sys2Proof
end

