-- ==== Sys2Proof/Machine/State.lean ====
section
/-! DEFINITION. The state of the machine as plain data, the reasons a step can stop, and the state after reset. -/

namespace Sys2Proof.Machine

/-- The FLAGS register (10_state.md R26). `ie` is the spec's IF. The unnamed bits are no state (R48). -/
structure Flags where
  cf : Bool
  pf : Bool
  af : Bool
  zf : Bool
  sf : Bool
  tf : Bool
  ie : Bool
  df : Bool
  ovf : Bool
  iopl : BitVec 2
  nt : Bool
  deriving DecidableEq, Repr

/-- The machine status word (10_state.md R34). Bits 15 to 4 read as ones and are no state (R37). -/
structure Msw where
  pe : Bool
  mp : Bool
  em : Bool
  ts : Bool
  deriving DecidableEq, Repr

/-- The access rights of a descriptor cache (10_state.md R30): `null` after a null selector (20_memory.md R119), `real`
for a real-mode load, which may be read, written and executed (R82), or the access rights byte of a descriptor. -/
inductive Rights where
  | null
  | real
  | descr (ar : Byte)
  deriving DecidableEq, Repr

/-- A segment register and its descriptor cache (10_state.md R30). -/
structure SegReg where
  sel : Word
  base : Addr
  limit : Word
  rights : Rights
  deriving DecidableEq, Repr

/-- GDTR or IDTR (10_state.md R38, R39). -/
structure TableReg where
  base : Addr
  limit : Word
  deriving DecidableEq, Repr

/-- LDTR with its hidden part; `valid` after a load of a selector that is not null (10_state.md R40). -/
structure LdtReg where
  sel : Word
  base : Addr
  limit : Word
  valid : Bool
  deriving DecidableEq, Repr

/-- TR with its hidden part (10_state.md R41). -/
structure TaskReg where
  sel : Word
  base : Addr
  limit : Word
  deriving DecidableEq, Repr

/-- The prefix bytes read so far of the instruction being fetched (30_encoding.md R151, R170): the segment override,
the repeat prefix (`some true` for 0xF3, `some false` for 0xF2: its z bit), LOCK, and how many bytes they are. -/
structure Prefixes where
  seg : Option SReg
  rep : Option Bool
  lock : Bool
  len : Nat
  deriving DecidableEq, Repr

/-- A repeated string instruction between two iterations (43_string.md R320): the instruction as it was decoded, its
prefixes, and IP past it. -/
structure Repetition where
  instr : Instr
  pfx : Prefixes
  ip : Word
  ipWrap : Bool
  deriving DecidableEq, Repr

/-- The queues filled in real mode, from LMSW setting PE to a control transfer (10_state.md R42 (b)): the offset after
the LMSW, and whether the next instructions may also have been decoded there. -/
structure RealQueue where
  off : Word
  decoded : Bool
  deriving DecidableEq, Repr

/-- The operand of the last ESC with a memory operand (46_processor_control.md R435): the descriptor cache its
addresses go through, the offset of the next word, which grows past 0xFFFF, and whether the processor extension writes
memory. -/
structure ExtOperand where
  segment : SegReg
  off : Nat
  toMemory : Bool
  deriving DecidableEq, Repr

/-- The inputs a step samples (10_state.md R42 (g)). `intr` is an INTR request with the vector the second acknowledge
cycle would return (60_exceptions.md R505), `pereq` the number of operand words the processor extension asks for. -/
structure Pins where
  reset : Bool
  intr : Option Byte
  busy : Bool
  error : Bool
  pereq : Nat
  deriving DecidableEq, Repr

/-- What lies at a physical address (00_scope.md R8, `MEM_MAP`): RAM, ROM, or nothing. -/
inductive MemKind where
  | ram
  | rom
  | nothing
  deriving DecidableEq, Repr

/-- What lies at the physical addresses from `first` to `last`. -/
structure Region where
  first : Nat
  last : Nat
  kind : MemKind
  deriving DecidableEq, Repr

/-- What the system around the chip fixes: `REAL_MODE_A20_A23_IGNORED` and `MEM_MAP` (00_scope.md R8,
92_eei_decisions.md D1, D2). Where regions overlap the first counts, an address outside all of them is RAM. -/
structure Board where
  a20A23Ignored : Bool
  memMap : List Region
  deriving DecidableEq, Repr

/-- What lies at a physical address. -/
def Board.kindAt (b : Board) (location : Nat) : MemKind :=
  match b.memMap.find? fun r => r.first ≤ location && location ≤ r.last with
  | some r => r.kind
  | none => .ram

/-- What leaves the machine on the bus besides memory accesses (10_state.md R43): each I/O read and write operation with
its value (a word at an odd port is two byte operations, 20_memory.md R76, R77), an ESC handed to the processor extension (TTT, LLL, mod, r/m, the operand's base and offset), an operand word of
it, an interrupt acknowledge, halt and shutdown. -/
inductive BusEvent where
  | ioRead (port : Word) (w : Width) (v : Word)
  | ioWrite (port : Word) (w : Width) (v : Word)
  | escape (ttt lll : BitVec 3) (mod : BitVec 2) (rm : Reg) (operand : Option (Addr × Word))
  | operandWord (off : Word) (toMemory : Bool) (v : Word)
  | acknowledge (v : Byte)
  | halt
  | shutdown
  deriving DecidableEq, Repr

/-- The state of the 80C286 and of its memory. -/
structure State where
  /-- AX, CX, DX, BX, SP, BP, SI, DI in the order of their numbers (10_state.md R21). -/
  regs : Vector Word 8
  /-- The instruction pointer (10_state.md R24). -/
  ip : Word
  /-- FLAGS (10_state.md R26). -/
  flags : Flags
  /-- The machine status word (10_state.md R34). -/
  msw : Msw
  /-- The segment registers (10_state.md R30). -/
  es : SegReg
  cs : SegReg
  ss : SegReg
  ds : SegReg
  /-- The global descriptor table register (10_state.md R38). -/
  gdtr : TableReg
  /-- The interrupt descriptor table register (10_state.md R39). -/
  idtr : TableReg
  /-- The local descriptor table register (10_state.md R40). -/
  ldtr : LdtReg
  /-- The task register (10_state.md R41). -/
  tr : TaskReg
  /-- Physical memory: the bytes that differ from `unlisted`, at strictly rising addresses (20_memory.md R70). -/
  mem : List Host.Cell
  /-- Code bytes overwritten inside the prefetch window since the last control transfer, with the byte they held
  (20_memory.md R141). -/
  stale : List Host.Cell
  /-- The bytes and instructions that may still be queued as fetched and decoded before LMSW set PE (10_state.md R42 (b),
  20_memory.md R141). -/
  realQueue : Option RealQueue
  /-- The repeated string instruction that goes on with its next iteration (43_string.md R320). -/
  repeating : Option Repetition
  /-- `nmi_in_service` and `nmi_pending` (10_state.md R42). -/
  nmiInService : Bool
  nmiPending : Bool
  /-- A processor extension segment overrun waits to be taken (60_exceptions.md R509, R519). -/
  overrunPending : Bool
  /-- A segment overrun during shutdown inhibits further service of PEREQ (60_exceptions.md R519). -/
  pereqInhibited : Bool
  /-- `halted` and `shutdown` (10_state.md R42). -/
  halted : Bool
  shutdown : Bool
  /-- The operand the processor extension may transfer (46_processor_control.md R435). -/
  ext : Option ExtOperand
  /-- The instruction just executed began with TF set and raised no exception (60_exceptions.md R507). -/
  trap : Bool
  /-- Hold-off after a load of SS, for one instruction (40_data_transfer.md R231). -/
  inhibitAll : Bool
  /-- Hold-off of INTR after STI, for one instruction (46_processor_control.md R427). -/
  inhibitIntr : Bool
  /-- The prefixes read so far (30_encoding.md R151). -/
  pfx : Prefixes
  /-- `cur_ip`, the offset of the first byte of the current instruction with its prefixes (10_state.md R25). -/
  curIp : Word
  /-- Sequential execution has carried IP past 0xFFFF (10_state.md R25). -/
  ipWrap : Bool
  /-- The inputs (10_state.md R42 (g)). -/
  pins : Pins
  /-- What the system around the chip fixes (00_scope.md R8). No step changes it. -/
  board : Board
  /-- The MODEL's own record of what left on the bus, newest first. -/
  bus : List BusEvent
  /-- The MODEL's own count of free values drawn so far. -/
  free : Nat
  /-- The MODEL's own count of fetches and events, which makes what is read where nothing is placed new. -/
  ticks : Nat
  deriving DecidableEq, Repr

/-- The model's faults: closed. -/
inductive Fault where
  /-- A word access at physical 0xFFFFFF where all 24 address bits count: its second byte lies beyond the 24-bit space, and
  where it goes "is not stated" (20_memory.md R70); 93_implementation_defined.md U1 says `refuse`. Raised by every
  physical word access. Safe: the model stops where the hardware goes on. -/
  | physicalOverrun
  deriving DecidableEq, Repr

/-- The model's refusals: closed. -/
inductive Refusal where
  /-- An instruction with no meaning in this model yet. Raised by `exec`. Safe. -/
  | notModelled (mnemonic : String)
  /-- A repeat prefix before an instruction that is no string instruction (93_implementation_defined.md U6). Raised
  by `perform`. Safe. -/
  | repeatPrefix
  /-- AAM or AAD with a second byte other than 0x0A (93_implementation_defined.md U7). Raised by `step`. Safe. -/
  | adjustBase
  /-- An instruction longer than `MAX_INSN_LEN` bytes (93_implementation_defined.md U21). Raised by `step`. Safe. -/
  | tooLong
  /-- LMSW that sets PE while the low two bits of CS are not zero (93_implementation_defined.md U15). Raised by the
  meaning of LMSW. Safe. -/
  | protectedEntryCpl
  deriving DecidableEq, Repr

/-- Why the effect of an instruction ends early: an exception by its vector with the error code of protected mode
(00_scope.md R14), shutdown (60_exceptions.md R545), or a stop of the model. -/
inductive Stop where
  | exc (v : Byte) (err : Option Word)
  | shutdown
  | fault (f : Fault)
  | refused (r : Refusal)
  deriving DecidableEq, Repr

/-- An effect on the state that may stop early with the state as it then is. -/
abbrev M := EStateM Stop State

/-- What a byte of memory that nothing has written reads as. DESIGN CHOICE, unsafe: log entry 3. -/
def unlisted : Byte := 0x00

/-- No prefix. -/
def noPrefixes : Prefixes := { seg := none, rep := none, lock := false, len := 0 }

/-- The flag word 0x0002 of 70_reset_and_hazards.md R601. -/
def Flags.reset : Flags :=
  { cf := false, pf := false, af := false, zf := false, sf := false, tf := false, ie := false, df := false,
    ovf := false, iopl := 0, nt := false }

/-- A data or stack segment after reset (10_state.md R44). -/
def SegReg.reset : SegReg := { sel := 0x0000, base := 0x000000, limit := 0xFFFF, rights := .real }

/-- The machine right after reset (10_state.md R44, 70_reset_and_hazards.md R601). The general registers, GDTR, LDTR
and TR hold the values log entries 1 and 2 name. -/
def State.reset : State :=
  { regs := Vector.replicate 8 0x0000
    ip := 0xFFF0
    flags := Flags.reset
    msw := { pe := false, mp := false, em := false, ts := false }
    es := SegReg.reset
    cs := { sel := 0xF000, base := 0xFF0000, limit := 0xFFFF, rights := .real }
    ss := SegReg.reset
    ds := SegReg.reset
    gdtr := { base := 0x000000, limit := 0x0000 }
    idtr := { base := 0x000000, limit := 0x03FF }
    ldtr := { sel := 0x0000, base := 0x000000, limit := 0x0000, valid := false }
    tr := { sel := 0x0000, base := 0x000000, limit := 0x0000 }
    mem := []
    stale := []
    realQueue := none
    repeating := none
    nmiInService := false
    nmiPending := false
    overrunPending := false
    pereqInhibited := false
    halted := false
    shutdown := false
    ext := none
    trap := false
    inhibitAll := false
    inhibitIntr := false
    pfx := noPrefixes
    curIp := 0xFFF0
    ipWrap := false
    pins := { reset := false, intr := none, busy := false, error := false, pereq := 0 }
    board := { a20A23Ignored := true, memMap := [] }
    bus := []
    free := 0
    ticks := 0 }

end Sys2Proof.Machine
end

