-- ==== Sys2Proof/Machine/Flags.lean ====
section
/-! DEFINITION. The images of FLAGS and MSW and every flag computation of the spec. -/

namespace Sys2Proof.Machine

/-- The 16-bit image of FLAGS: bit 1 reads 1, bits 3, 5 and 15 read 0 (10_state.md R26, R48). -/
def Flags.image (f : Flags) : Word :=
  BitVec.ofBool false ++ BitVec.ofBool f.nt ++ f.iopl ++ BitVec.ofBool f.ovf ++ BitVec.ofBool f.df ++
    BitVec.ofBool f.ie ++ BitVec.ofBool f.tf ++ BitVec.ofBool f.sf ++ BitVec.ofBool f.zf ++ BitVec.ofBool false ++
    BitVec.ofBool f.af ++ BitVec.ofBool false ++ BitVec.ofBool f.pf ++ BitVec.ofBool true ++ BitVec.ofBool f.cf

/-- The flags named by a 16-bit image; its unnamed bits are ignored (10_state.md R26, R48). -/
def Flags.ofImage (v : Word) : Flags :=
  { cf := v.getLsbD 0, pf := v.getLsbD 2, af := v.getLsbD 4, zf := v.getLsbD 6, sf := v.getLsbD 7,
    tf := v.getLsbD 8, ie := v.getLsbD 9, df := v.getLsbD 10, ovf := v.getLsbD 11,
    iopl := v.extractLsb' 12 2, nt := v.getLsbD 14 }

/-- The low byte of FLAGS, which LAHF loads (40_data_transfer.md R228). -/
def Flags.lowImage (f : Flags) : Byte := lowByte f.image

/-- SAHF (40_data_transfer.md R229): the five status flags of a byte, the rest unchanged. -/
def Flags.loadLow (f : Flags) (v : Byte) : Flags :=
  { f with sf := v.getLsbD 7, zf := v.getLsbD 6, af := v.getLsbD 4, pf := v.getLsbD 2, cf := v.getLsbD 0 }

/-- The flags POPF and IRET load in real mode: IOPL and NT stay 0 (40_data_transfer.md R236, 44_control_transfer.md
R371). -/
def Flags.loadReal (v : Word) : Flags := { Flags.ofImage v with iopl := 0, nt := false }

/-- The flags POPF and IRET load in protected mode at privilege level `cpl`: IF only if CPL <= IOPL, IOPL only if
CPL = 0, by the IOPL before the instruction (40_data_transfer.md R236, 45_protected_transfer.md R405). -/
def Flags.loadProtected (f : Flags) (cpl : Nat) (v : Word) : Flags :=
  { Flags.ofImage v with
    ie := if cpl ≤ f.iopl.toNat then v.getLsbD 9 else f.ie
    iopl := if cpl = 0 then v.extractLsb' 12 2 else f.iopl }

/-- The 16-bit image of MSW, `0xFFF0 | MSW[3:0]` (10_state.md R37). -/
def Msw.image (m : Msw) : Word :=
  0xFFF#12 ++ BitVec.ofBool m.ts ++ BitVec.ofBool m.em ++ BitVec.ofBool m.mp ++ BitVec.ofBool m.pe

/-- PF: an even number of 1 bits in the low-order 8 bits of the result (10_state.md R27). -/
def evenParity (r : Byte) : Bool :=
  !(r.getLsbD 0 ^^ r.getLsbD 1 ^^ r.getLsbD 2 ^^ r.getLsbD 3 ^^ r.getLsbD 4 ^^ r.getLsbD 5 ^^ r.getLsbD 6 ^^
    r.getLsbD 7)

/-- ZF, SF and PF of a result (10_state.md R27). -/
def Flags.ofResult {n : Nat} (f : Flags) (r : BitVec n) : Flags :=
  { f with zf := r == 0, sf := r.msb, pf := evenParity (r.setWidth 8) }

/-- The sum `AddFlags` returns (41_arithmetic.md R241). -/
def addResult {n : Nat} (a b : BitVec n) (c : Bool) : BitVec n := BitVec.ofNat n (a.toNat + b.toNat + c.toNat)

/-- The flags `AddFlags` writes (41_arithmetic.md R241). -/
def addFlags {n : Nat} (f : Flags) (a b : BitVec n) (c : Bool) : Flags :=
  let r := addResult a b c
  { f.ofResult r with
    cf := decide (2 ^ n ≤ a.toNat + b.toNat + c.toNat)
    af := decide (16 ≤ a.toNat % 16 + b.toNat % 16 + c.toNat)
    ovf := a.msb == b.msb && r.msb != a.msb }

/-- The difference `SubFlags` returns (41_arithmetic.md R242). -/
def subResult {n : Nat} (a b : BitVec n) (c : Bool) : BitVec n := a - b - BitVec.ofNat n c.toNat

/-- The flags `SubFlags` writes (41_arithmetic.md R242). -/
def subFlags {n : Nat} (f : Flags) (a b : BitVec n) (c : Bool) : Flags :=
  let r := subResult a b c
  { f.ofResult r with
    cf := decide (a.toNat < b.toNat + c.toNat)
    af := decide (a.toNat % 16 < b.toNat % 16 + c.toNat)
    ovf := a.msb != b.msb && r.msb != a.msb }

/-- The flags `LogicFlags` writes; `af` is the free value AF takes (42_logic.md R281). -/
def logicFlags {n : Nat} (f : Flags) (r : BitVec n) (af : Bool) : Flags :=
  { f.ofResult r with cf := false, ovf := false, af := af }

/-- The flags of INC: those of `AddFlags` with 1, CF not written (41_arithmetic.md R249). -/
def incFlags {n : Nat} (f : Flags) (a : BitVec n) : Flags := { addFlags f a 1 false with cf := f.cf }

/-- The flags of DEC: those of `SubFlags` with 1, CF not written (41_arithmetic.md R257). -/
def decFlags {n : Nat} (f : Flags) (a : BitVec n) : Flags := { subFlags f a 1 false with cf := f.cf }

/-- CF, PF, AF, ZF, SF and OF taking the free values numbered from `n` (93_implementation_defined.md U16). -/
def Flags.allFree (f : Flags) (n : Nat) : Flags :=
  { f with
    cf := Config.freeBit n, pf := Config.freeBit (n + 1), af := Config.freeBit (n + 2),
    zf := Config.freeBit (n + 3), sf := Config.freeBit (n + 4), ovf := Config.freeBit (n + 5) }

/-- The flags of MUL and IMUL: CF and OF say whether the high half matters, SF, ZF, AF and PF take the free values
numbered from `n` (41_arithmetic.md R267 to R269). -/
def mulFlags (f : Flags) (wide : Bool) (n : Nat) : Flags := { f.allFree n with cf := wide, ovf := wide }

/-- The seven operations of the shift group (42_logic.md R295). -/
inductive ShiftOp where
  | rol
  | ror
  | rcl
  | rcr
  | shl
  | shr
  | sar
  deriving DecidableEq, Repr

/-- Whether an operation is a shift, which writes SF, ZF, PF and AF, or a rotate (42_logic.md R295). -/
def ShiftOp.isShift : ShiftOp → Bool
  | .shl => true
  | .shr => true
  | .sar => true
  | .rol => false
  | .ror => false
  | .rcl => false
  | .rcr => false

/-- The bit `b` in the lowest place of an n-bit value. -/
def bitLow (n : Nat) (b : Bool) : BitVec n := BitVec.ofNat n b.toNat

/-- The bit `b` in the highest place of an n-bit value. -/
def bitHigh (n : Nat) (b : Bool) : BitVec n := bitLow n b <<< (n - 1)

/-- One step of a shift or rotate: the new operand and the new CF (42_logic.md R296 to R302). -/
def shiftStep {n : Nat} (op : ShiftOp) (x : BitVec n) (cf : Bool) : BitVec n × Bool :=
  match op with
  | .rol => (x <<< 1 ||| bitLow n x.msb, x.msb)
  | .ror => (x >>> 1 ||| bitHigh n (x.getLsbD 0), x.getLsbD 0)
  | .rcl => (x <<< 1 ||| bitLow n cf, x.msb)
  | .rcr => (x >>> 1 ||| bitHigh n cf, x.getLsbD 0)
  | .shl => (x <<< 1, x.msb)
  | .shr => (x >>> 1, x.getLsbD 0)
  | .sar => (x >>> 1 ||| bitHigh n x.msb, x.getLsbD 0)

/-- `count` steps (42_logic.md R295). -/
def shiftSteps {n : Nat} (op : ShiftOp) (count : Nat) (x : BitVec n) (cf : Bool) : BitVec n × Bool :=
  match count with
  | 0 => (x, cf)
  | k + 1 =>
    let p := shiftStep op x cf
    shiftSteps op k p.1 p.2

/-- OF after a single step from operand `x` to `r` with the new carry `cf` (42_logic.md R296 to R302). -/
def shiftOverflow {n : Nat} (op : ShiftOp) (x r : BitVec n) (cf : Bool) : Bool :=
  match op with
  | .rol => r.msb ^^ cf
  | .ror => r.msb ^^ r.getLsbD (n - 2)
  | .rcl => r.msb ^^ cf
  | .rcr => r.msb ^^ r.getLsbD (n - 2)
  | .shl => r.msb ^^ cf
  | .shr => x.msb
  | .sar => false

/-- The effective count, `count & 0x1F` (42_logic.md R295). -/
def shiftCount (count : Byte) : Nat := count.toNat % 32

/-- The result of a shift or rotate (42_logic.md R295). -/
def shiftResult {n : Nat} (op : ShiftOp) (x : BitVec n) (count : Byte) (cf : Bool) : BitVec n :=
  (shiftSteps op (shiftCount count) x cf).1

/-- The flags of a shift or rotate: none written for a count of 0; OF free for a count above 1; AF free after a shift;
`n0` numbers the free values (42_logic.md R295). -/
def shiftFlags {n : Nat} (f : Flags) (op : ShiftOp) (x : BitVec n) (count : Byte) (n0 : Nat) : Flags :=
  let c := shiftCount count
  if c = 0 then f
  else
    let p := shiftSteps op c x f.cf
    let g := if op.isShift then { f.ofResult p.1 with af := Config.freeBit (n0 + 1) } else f
    { g with
      cf := p.2
      ovf := if c = 1 then shiftOverflow op x p.1 p.2 else Config.freeBit n0 }

/-- The flags after an interrupt entry in real mode (60_exceptions.md R522). -/
def Flags.enterReal (f : Flags) : Flags := { f with ie := false, tf := false }

/-- The flags after entry through an interrupt gate or a trap gate (60_exceptions.md R522). -/
def Flags.enterGate (f : Flags) (trapGate : Bool) : Flags :=
  { f with ie := f.ie && trapGate, tf := false, nt := false }

end Sys2Proof.Machine
end

