-- ==== Sys2Proof/Machine/Access.lean ====
section
/-! DEFINITION. The named operations over memory, registers, segments, descriptors and ports (20_memory.md). -/

namespace Sys2Proof.Machine

/-! Memory: a list of cells at strictly rising addresses, none holding `unlisted`. -/

/-- The byte at an address. -/
def Memory.read (m : List Host.Cell) (a : Nat) : Byte :=
  match m with
  | [] => unlisted
  | (k, v) :: rest => if k = a then v else Memory.read rest a

/-- Store a byte, keeping the canonical form. -/
def Memory.write (m : List Host.Cell) (a : Nat) (v : Byte) : List Host.Cell :=
  match m with
  | [] => if v = unlisted then [] else [(a, v)]
  | (k, x) :: rest =>
    if k < a then (k, x) :: Memory.write rest a v
    else if k = a then (if v = unlisted then rest else (a, v) :: rest)
    else if v = unlisted then (k, x) :: rest
    else (a, v) :: (k, x) :: rest

/-- The canonical form from a lower bound of the addresses on. -/
def Memory.wfFrom (low : Nat) (m : List Host.Cell) : Bool :=
  match m with
  | [] => true
  | (k, v) :: rest => low ≤ k && k < 2 ^ 24 && v != unlisted && Memory.wfFrom (k + 1) rest

/-- The canonical form: addresses strictly rising inside the 24-bit space, no entry equal to `unlisted`. -/
def Memory.wf (m : List Host.Cell) : Bool := Memory.wfFrom 0 m

/-- The memory location reached by the 24-bit address on the pins: modulo 2^20 in real mode (20_memory.md R81,
92_eei_decisions.md D1) where the system ignores the address bits above. -/
def State.physical (s : State) (a : Addr) : Nat :=
  if s.msw.pe || !s.board.a20A23Ignored then a.toNat else a.toNat % 2 ^ 20

/-- What a location answers at a count of fetches and events; where nothing is placed a free value (R143,
93_implementation_defined.md U18). Log entry 3. -/
def State.byteAt (s : State) (ticks location : Nat) : Byte :=
  if s.board.kindAt location = .nothing then Config.unpopulated ticks location else Memory.read s.mem location

/-- `MemRead(pa, 1)` (20_memory.md R70). -/
def State.readByte (s : State) (a : Addr) : Byte := s.byteAt s.ticks (s.physical a)

/-- Whether a store reaches a location: it is RAM (20_memory.md R143). -/
def State.isRam (s : State) (location : Nat) : Bool := s.board.kindAt location == .ram

/-- `MemRead(pa, 2)`, the low byte at the lower address (20_memory.md R71). -/
def State.readWord (s : State) (a : Addr) : Word := concatBytes (s.readByte (a + 1)) (s.readByte a)

/-- The location a code address had before LMSW set PE (20_memory.md R81). -/
def State.realLocation (s : State) (a : Addr) : Nat := if s.board.a20A23Ignored then a.toNat % 2 ^ 20 else a.toNat

/-- Whether a location lies among `length` from `start` on, in a memory of `size` bytes. -/
def inSpan (size start length location : Nat) : Bool := decide ((location + size - start) % size < length)

/-- Whether a location lies in the current instruction or within the prefetch window after it, also by the addresses of
real mode while its queues may be in use (20_memory.md R141). Log entries 13 and 32. -/
def State.inPrefetchWindow (s : State) (location : Nat) : Bool :=
  let start := s.cs.base + zeroExtend24 s.curIp
  let length := (s.ip - s.curIp).toNat + Config.prefetchWindow
  let realSize := if s.board.a20A23Ignored then 2 ^ 20 else 2 ^ 24
  inSpan (if s.msw.pe then 2 ^ 24 else realSize) (s.physical start) length location ||
    s.realQueue.isSome && inSpan realSize (s.realLocation start) length location

/-- `MemWrite(pa, 1, v)` (20_memory.md R70), dropped where there is no RAM (R143); a byte of the prefetch window leaves
its old value behind (R141). -/
def State.writeByte (s : State) (a : Addr) (v : Byte) : State :=
  let location := s.physical a
  { s with
    mem := if s.isRam location then Memory.write s.mem location v else s.mem
    stale :=
      if s.isRam location && s.inPrefetchWindow location then (location, Memory.read s.mem location) :: s.stale
      else s.stale }

/-- `MemWrite(pa, 2, v)` (20_memory.md R71). -/
def State.writeWord (s : State) (a : Addr) (v : Word) : State :=
  (s.writeByte a (lowByte v)).writeByte (a + 1) (highByte v)

/-- Whether one of `words` consecutive word accesses from `a` is at physical 0xFFFFFF (93_implementation_defined.md U1):
in protected mode, and in real mode where the board does not ignore A20 to A23. -/
def State.crossesTop (s : State) (a : Addr) (words : Nat) : Bool :=
  (s.msw.pe || !s.board.a20A23Ignored) && (List.range words).any fun k => a + BitVec.ofNat 24 (2 * k) == 0xFFFFFF#24

/-! Registers. -/

/-- AX, CX, DX, BX, SP, BP, SI, DI by their numbers (10_state.md R21). -/
abbrev AX : Reg := 0#3
/-- CX. -/
abbrev CX : Reg := 1#3
/-- DX. -/
abbrev DX : Reg := 2#3
/-- BX. -/
abbrev BX : Reg := 3#3
/-- SP. -/
abbrev SP : Reg := 4#3
/-- BP. -/
abbrev BP : Reg := 5#3
/-- SI. -/
abbrev SI : Reg := 6#3
/-- DI. -/
abbrev DI : Reg := 7#3
/-- AL, the 8-bit register 0 (10_state.md R21). -/
abbrev AL : Reg := 0#3
/-- CL, the 8-bit register 1. -/
abbrev CL : Reg := 1#3
/-- AH, the 8-bit register 4. -/
abbrev AH : Reg := 4#3

/-- `x[i]` (00_scope.md R11). -/
def State.reg (s : State) (r : Reg) : Word := s.regs[r.toNat]'(r.isLt)

/-- `x[i] <- v` (00_scope.md R11). -/
def State.setReg (s : State) (r : Reg) (v : Word) : State := { s with regs := s.regs.set r.toNat v r.isLt }

/-- `x8[i]` (00_scope.md R11): the low byte of registers 0 to 3, then the high byte. -/
def State.reg8 (s : State) (r : Reg) : Byte :=
  if r.toNat < 4 then lowByte (s.reg r) else highByte (s.reg (r - 4))

/-- `x8[i] <- v`: the other half is unchanged (00_scope.md R11). -/
def State.setReg8 (s : State) (r : Reg) (v : Byte) : State :=
  if r.toNat < 4 then s.setReg r (concatBytes (highByte (s.reg r)) v)
  else s.setReg (r - 4) (concatBytes v (lowByte (s.reg (r - 4))))

/-- `reg(w, i)` (00_scope.md R11). -/
def State.getReg (s : State) (w : Width) (r : Reg) : BitVec w.bits :=
  match w with
  | .byte => s.reg8 r
  | .word => s.reg r

/-- `reg(w, i) <- v` (00_scope.md R11). -/
def State.putReg (s : State) (w : Width) (r : Reg) (v : BitVec w.bits) : State :=
  match w with
  | .byte => s.setReg8 r v
  | .word => s.setReg r v

/-- The segment register `sr[i]` (10_state.md R30). -/
def State.seg (s : State) : SReg → SegReg
  | .es => s.es
  | .cs => s.cs
  | .ss => s.ss
  | .ds => s.ds

/-- Replace a segment register with its cache. -/
def State.setSeg (s : State) (r : SReg) (v : SegReg) : State :=
  match r with
  | .es => { s with es := v }
  | .cs => { s with cs := v }
  | .ss => { s with ss := v }
  | .ds => { s with ds := v }

/-- CPL: the low two bits of CS in protected mode, 0 in real mode (10_state.md R33). -/
def State.cpl (s : State) : Nat := if s.msw.pe then (s.cs.sel.extractLsb' 0 2).toNat else 0

/-- The prefetch queue and the decoded instructions are discarded (20_memory.md R141). -/
def State.flush (s : State) : State := { s with stale := [], realQueue := none, repeating := none }

/-- A control transfer: IP is written and the queues discarded (20_memory.md R141). -/
def State.transfer (s : State) (target : Word) : State := { s.flush with ip := target, ipWrap := false }

/-! The effects of an instruction. -/

/-- Read the state. -/
def look {α : Type} (f : State → α) : M α := fun s => .ok (f s) s

/-- Change the state. -/
def update (f : State → State) : M Unit := fun s => .ok () (f s)

/-- Stop. -/
def stop {α : Type} (e : Stop) : M α := fun s => .error e s

/-- Stop unless a condition holds. -/
def require (c : State → Bool) (e : Stop) : M Unit := fun s => if c s then .ok () s else .error e s

/-- Stop where a test of the state says so. -/
def check (test : State → Option Stop) : M Unit := fun s =>
  match test s with
  | none => .ok () s
  | some e => .error e s

/-- The number of the next of `k` free values (log entry 17). -/
def draw (k : Nat) : M Nat := fun s => .ok s.free { s with free := s.free + k }

/-- GeneralProtection with an error code (60_exceptions.md R528). -/
abbrev generalProtection (err : Word) : Stop := .exc 13 (some err)

/-- StackFault with an error code (60_exceptions.md R527). -/
abbrev stackFault (err : Word) : Stop := .exc 12 (some err)

/-- NotPresent with an error code (60_exceptions.md R525). -/
abbrev notPresent (err : Word) : Stop := .exc 11 (some err)

/-- InvalidTSS with an error code (60_exceptions.md R524). -/
abbrev invalidTss (err : Word) : Stop := .exc 10 (some err)

/-- InvalidOpcode (60_exceptions.md R516). -/
abbrev invalidOpcode : Stop := .exc 6 none

/-- In protected mode an instruction that needs CPL = 0 (60_exceptions.md R560). -/
def requireCpl0 : M Unit := require (fun s => s.cpl == 0) (generalProtection 0)

/-- In protected mode an instruction that needs CPL <= IOPL (60_exceptions.md R561). -/
def State.mayDoIo (s : State) : Bool := !s.msw.pe || s.cpl ≤ s.flags.iopl.toNat

/-- The IOPL test (60_exceptions.md R561). -/
def requireIopl : M Unit := require State.mayDoIo (generalProtection 0)

/-! Segmented access. -/

/-- Bit `i` of an access rights byte (20_memory.md R104). -/
abbrev arBit (ar : Byte) (i : Nat) : Bool := ar.getLsbD i

/-- Whether a cache allows reads (20_memory.md R110): not an execute-only code segment. -/
def Rights.readable : Rights → Bool
  | .null => false
  | .real => true
  | .descr ar => !arBit ar 3 || arBit ar 1

/-- Whether a cache allows writes (20_memory.md R111): a writable data segment. -/
def Rights.writable : Rights → Bool
  | .null => false
  | .real => true
  | .descr ar => !arBit ar 3 && arBit ar 1

/-- Whether a cache is an expand-down data segment (20_memory.md R104). -/
def Rights.expandDown : Rights → Bool
  | .null => false
  | .real => false
  | .descr ar => !arBit ar 3 && arBit ar 2

/-- The limit test of 20_memory.md R112 for an access of `bytes` bytes at `off`. -/
def SegReg.inLimit (g : SegReg) (off : Word) (bytes : Nat) : Bool :=
  let last := off.toNat + bytes - 1
  if g.rights.expandDown then decide (g.limit.toNat < off.toNat) && last ≤ 0xFFFF
  else last ≤ g.limit.toNat

/-- Why an access through a segment register may not happen: 20_memory.md R83 in real mode, R110 to R112 in protected
mode, where no word of a segment lies at physical 0xFFFFFF. `isStack` says that the register is SS. -/
def segmentStop (s : State) (g : SegReg) (isStack : Bool) (off : Word) (w : Width) (write : Bool) : Option Stop :=
  let outside := if isStack then stackFault 0 else generalProtection 0
  if !s.msw.pe then (if w = .word ∧ off = 0xFFFF then some (.exc 13 none) else none)
  else if g.rights = .null then some outside
  else if !(if write then g.rights.writable else g.rights.readable) then some (generalProtection 0)
  else if !g.inLimit off w.bytes then some outside
  else if w = .word ∧ s.crossesTop (g.base + zeroExtend24 off) 1 then some (.fault .physicalOverrun)
  else none

/-- `segmentStop` for a segment register. -/
def State.accessStop (s : State) (r : SReg) (off : Word) (w : Width) (write : Bool) : Option Stop :=
  segmentStop s (s.seg r) (r == .ss) off w write

/-- The bytes of an operand through a cache, after the checks (20_memory.md R80, R100). -/
def State.loadVia (s : State) (g : SegReg) (off : Word) (w : Width) : BitVec w.bits :=
  match w with
  | .byte => s.readByte (g.base + zeroExtend24 off)
  | .word => s.readWord (g.base + zeroExtend24 off)

/-- Store an operand through a cache, after the checks. -/
def State.storeVia (s : State) (g : SegReg) (off : Word) (w : Width) (v : BitVec w.bits) : State :=
  match w with
  | .byte => s.writeByte (g.base + zeroExtend24 off) v
  | .word => s.writeWord (g.base + zeroExtend24 off) v

/-- The operand at an offset of a segment register. -/
def State.load (s : State) (r : SReg) (off : Word) (w : Width) : BitVec w.bits := s.loadVia (s.seg r) off w

/-- Store an operand at an offset of a segment register. -/
def State.store (s : State) (r : SReg) (off : Word) (w : Width) (v : BitVec w.bits) : State :=
  s.storeVia (s.seg r) off w v

/-- `SegRead(s, off, n)` (20_memory.md R83, R110). -/
def segRead (r : SReg) (off : Word) (w : Width) : M (BitVec w.bits) := do
  check fun s => s.accessStop r off w false
  look fun s => s.load r off w

/-- `SegWrite(s, off, n, v)` (20_memory.md R83, R111). -/
def segWrite (r : SReg) (off : Word) (w : Width) (v : BitVec w.bits) : M Unit := do
  check fun s => s.accessStop r off w true
  update fun s => s.store r off w v

/-! Descriptors. -/

/-- A descriptor as the tables hold it (20_memory.md R103, R105, R106): its limit or destination offset, its base, the
access rights byte, and the physical address it lies at. -/
structure Descriptor where
  limit : Word
  base : Addr
  ar : Byte
  addr : Addr
  deriving DecidableEq, Repr

/-- P, bit 7 of the access rights byte (20_memory.md R104). -/
def Descriptor.present (d : Descriptor) : Bool := arBit d.ar 7

/-- DPL, bits 6 to 5 (20_memory.md R104). -/
def Descriptor.dpl (d : Descriptor) : Nat := (d.ar.extractLsb' 5 2).toNat

/-- S, bit 4: a code or data segment (20_memory.md R104). -/
def Descriptor.isSegment (d : Descriptor) : Bool := arBit d.ar 4

/-- A code segment: S = 1, E = 1 (20_memory.md R104). -/
def Descriptor.isCode (d : Descriptor) : Bool := d.isSegment && arBit d.ar 3

/-- A conforming code segment: C = 1 (20_memory.md R104). -/
def Descriptor.isConforming (d : Descriptor) : Bool := d.isCode && arBit d.ar 2

/-- A writable data segment: E = 0, W = 1 (20_memory.md R104). -/
def Descriptor.isWritableData (d : Descriptor) : Bool := d.isSegment && !arBit d.ar 3 && arBit d.ar 1

/-- A data segment or a readable code segment (20_memory.md R115). -/
def Descriptor.isReadable (d : Descriptor) : Bool := d.isSegment && (!arBit d.ar 3 || arBit d.ar 1)

/-- The type of a system descriptor or gate (20_memory.md R105, R106). -/
def Descriptor.systemType (d : Descriptor) : Option Nat :=
  if d.isSegment then none else some (d.ar.extractLsb' 0 4).toNat

/-- The destination selector of a gate (20_memory.md R106). -/
def Descriptor.gateSelector (d : Descriptor) : Word := d.base.setWidth 16

/-- The word count of a call gate (20_memory.md R106). -/
def Descriptor.wordCount (d : Descriptor) : Nat := (d.base.extractLsb' 16 5).toNat

/-- The index part of a selector times 8 (20_memory.md R101, R102). -/
def selectorOffset (sel : Word) : Nat := (sel.extractLsb' 3 13).toNat * 8

/-- TI, bit 2 of a selector: the LDT (20_memory.md R101). -/
def selectorTi (sel : Word) : Bool := sel.getLsbD 2

/-- RPL of a selector (20_memory.md R101). -/
def selectorRpl (sel : Word) : Nat := (sel.extractLsb' 0 2).toNat

/-- The null selector (20_memory.md R119). Log entry 27. -/
def isNull (sel : Word) : Bool := sel &&& 0xFFFC == 0

/-- `ErrSel(sel)` without EXT (60_exceptions.md R531), which the delivery of an interrupt adds. -/
def errSel (sel : Word) : Word := sel &&& 0xFFFC

/-- EPL, the numeric maximum of CPL and RPL (20_memory.md R108). -/
def State.epl (s : State) (sel : Word) : Nat := max s.cpl (selectorRpl sel)

/-- The address of the descriptor a selector names, if it lies in its table (20_memory.md R102, 47_protection_control.md
R444). -/
def State.descriptorAddr (s : State) (sel : Word) : Option Addr :=
  let off := selectorOffset sel
  if selectorTi sel then
    if s.ldtr.valid && off + 7 ≤ s.ldtr.limit.toNat then some (s.ldtr.base + BitVec.ofNat 24 off) else none
  else if off + 7 ≤ s.gdtr.limit.toNat then some (s.gdtr.base + BitVec.ofNat 24 off) else none

/-- The descriptor at an address (20_memory.md R103). -/
def State.descriptorAt (s : State) (a : Addr) : Descriptor :=
  { limit := s.readWord a
    base := s.readByte (a + 4) ++ s.readWord (a + 2)
    ar := s.readByte (a + 5)
    addr := a }

/-- The descriptor at an address, its four words checked against the end of the physical space. -/
def readDescriptorAt (a : Addr) : M Descriptor := do
  require (fun s => !s.crossesTop a 4) (.fault .physicalOverrun)
  look fun s => s.descriptorAt a

/-- `ReadDescriptor(sel)` (20_memory.md R102); `miss` is what a selector outside its table raises. -/
def readDescriptor (sel : Word) (miss : Stop) : M Descriptor := do
  let a ← look fun s => s.descriptorAddr sel
  match a with
  | none => stop miss
  | some a => readDescriptorAt a

/-- `MemRead(pa, 2)` at a physical address that bypasses segmentation. -/
def readPhysical (a : Addr) : M Word := do
  require (fun s => !s.crossesTop a 1) (.fault .physicalOverrun)
  look fun s => s.readWord a

/-- The accessed bit is set in the table whenever the descriptor is used (20_memory.md R104). -/
def State.setAccessed (s : State) (d : Descriptor) : State :=
  if arBit d.ar 0 then s else s.writeByte (d.addr + 5) (d.ar ||| 1)

/-- The cache of a segment register loaded from a descriptor (20_memory.md R115). -/
def Descriptor.toSegReg (d : Descriptor) (sel : Word) : SegReg :=
  { sel := sel, base := d.base, limit := d.limit, rights := .descr (d.ar ||| 1) }

/-- A real-mode load (20_memory.md R82). -/
def realSegReg (sel : Word) : SegReg :=
  { sel := sel, base := zeroExtend24 sel <<< 4, limit := 0xFFFF, rights := .real }

/-- A null selector in DS or ES: the register is unusable (20_memory.md R119). -/
def SegReg.nulled (g : SegReg) (sel : Word) : SegReg := { g with sel := sel, rights := .null }

/-- A load of a segment register from a descriptor, with the accessed bit. -/
def State.loadFrom (s : State) (r : SReg) (sel : Word) (d : Descriptor) : State :=
  (s.setAccessed d).setSeg r (d.toSegReg sel)

/-- `LoadSeg(s, sel)` for DS and ES in protected mode (20_memory.md R115). -/
def loadDataSeg (r : SReg) (sel : Word) : M Unit :=
  if isNull sel then update fun s => s.setSeg r ((s.seg r).nulled sel)
  else do
    let d ← readDescriptor sel (generalProtection (errSel sel))
    require (fun _ => d.isReadable) (generalProtection (errSel sel))
    require (fun s => d.isConforming || s.epl sel ≤ d.dpl) (generalProtection (errSel sel))
    require (fun _ => d.present) (notPresent (errSel sel))
    update fun s => s.loadFrom r sel d

/-- `LoadSeg(SS, sel)` in protected mode (20_memory.md R116). -/
def loadStackSeg (sel : Word) : M Unit := do
  require (fun _ => !isNull sel) (generalProtection 0)
  let d ← readDescriptor sel (generalProtection (errSel sel))
  require (fun s => selectorRpl sel == s.cpl) (generalProtection (errSel sel))
  require (fun _ => d.isWritableData) (generalProtection (errSel sel))
  require (fun s => d.dpl == s.cpl) (generalProtection (errSel sel))
  require (fun _ => d.present) (stackFault (errSel sel))
  update fun s => s.loadFrom .ss sel d

/-- `LoadSeg(s, sel)` for ES, SS and DS (20_memory.md R82, R115, R116). -/
def loadSeg (r : SReg) (sel : Word) : M Unit := do
  let pe ← look fun s => s.msw.pe
  if !pe then update fun s => s.setSeg r (realSegReg sel)
  else if r = .ss then loadStackSeg sel
  else loadDataSeg r sel

/-! Stack. -/

/-- Why a push to offset `t` may not happen: the real-mode wrap is shutdown (20_memory.md R86). -/
def State.pushStop (s : State) (t : Word) : Option Stop :=
  if !s.msw.pe && t == 0xFFFF then some .shutdown else s.accessStop .ss t .word true

/-- `Push16(v)` (20_memory.md R86). -/
def push16 (v : Word) : M Unit := do
  check fun s => s.pushStop (s.reg SP - 2)
  update fun s => (s.store .ss (s.reg SP - 2) .word v).setReg SP (s.reg SP - 2)

/-- `Pop16()` (20_memory.md R87). -/
def pop16 : M Word := do
  let v ← (do segRead .ss (← look fun s => s.reg SP) .word)
  update fun s => s.setReg SP (s.reg SP + 2)
  pure v

/-- Whether the words pushed below `sp` through a stack cache may all be written: the first that may not says why
(45_protected_transfer.md R384, R391, 60_exceptions.md R530). -/
def frameStop (s : State) (g : SegReg) (sp : Word) (count : Nat) : Option Stop :=
  match count with
  | 0 => none
  | k + 1 =>
    match segmentStop s g true (sp - 2) .word true with
    | some e => some e
    | none => frameStop s g (sp - 2) k

/-- Free words at `count` stack offsets downwards from `t`, numbered from `n`. -/
def State.freeFrame (s : State) (t : Word) (n count : Nat) : State :=
  match count with
  | 0 => s
  | k + 1 => (s.store .ss t .word (Config.freeWord n)).freeFrame (t - 2) (n + 1) k

/-- Whether one of `count` pushes in real mode would wrap around the stack segment: SP is odd and too small for them
(20_memory.md R86, 60_exceptions.md R545). -/
def State.stackWraps (s : State) (count : Nat) : Bool :=
  !s.msw.pe && (s.reg SP).toNat % 2 == 1 && (s.reg SP).toNat / 2 < count

/-- The state in which `count` pushes that wrap end in shutdown: which of them were done is open, so SP and the words
below it that do not wrap take free values (60_exceptions.md R545, 93_implementation_defined.md U14). Log entry 21. -/
def State.wrapStack (s : State) (count : Nat) : State :=
  let n := s.free
  (({ s with free := n + count }).freeFrame (s.reg SP - 2) n ((s.reg SP).toNat / 2)).setReg SP
    (Config.freeWord (n + count - 1))

/-- Shutdown where `count` pushes would wrap around the stack segment in real mode (60_exceptions.md R545). -/
def requireStack (count : Nat) : M Unit := fun s =>
  if s.stackWraps count then .error .shutdown (s.wrapStack count) else .ok () s

/-- Write words below `sp` through a stack cache, the first at the highest address (60_exceptions.md R538). -/
def State.writeFrame (s : State) (g : SegReg) (sp : Word) (words : List Word) : State :=
  match words with
  | [] => s
  | v :: rest => (s.storeVia g (sp - 2) .word v).writeFrame g (sp - 2) rest

/-! Ports. -/

/-- A value of either width as a word on the bus. -/
def asWord (w : Width) (v : BitVec w.bits) : Word :=
  match w with
  | .byte => zeroExtend16 v
  | .word => v

/-- Whether a transfer at a port is two byte operations: a word at an odd port (20_memory.md R72, R76). -/
def splitsPort (port : Word) (w : Width) : Bool := w == .word && port.getLsbD 0

/-- The bus operations of one transfer at a port, the later first: a word at an odd port is the byte at `port`, the low
one, and then the byte at `port + 1`, the high one (20_memory.md R72, R76, R77). The port after 0xFFFF is 0x0000, log
entry 48. -/
def portOperations (operation : Word → Width → Word → BusEvent) (port : Word) (w : Width) (v : Word) : List BusEvent :=
  if splitsPort port w then
    [operation (port + 1) .byte (zeroExtend16 (highByte v)), operation port .byte (zeroExtend16 (lowByte v))]
  else [operation port w v]

/-- How many values the devices answer in one read of a port: one for each bus operation (20_memory.md R76). -/
def portDraws (port : Word) (w : Width) : Nat := if splitsPort port w then 2 else 1

/-- What the devices answer, free from the n-th value on: of a word at an odd port the byte at `port`, then the byte at
`port + 1` (20_memory.md R76). Log entry 24. -/
def portValue (port : Word) (w : Width) (n : Nat) : BitVec w.bits :=
  match w with
  | .byte => Config.freeByte n
  | .word =>
    if splitsPort port .word then concatBytes (Config.freeByte (n + 1)) (Config.freeByte n) else Config.freeWord n

/-- `IoRead(port, n)`: the devices' value, each bus operation done once (20_memory.md R76). Log entry 24. -/
def ioRead (port : Word) (w : Width) : M (BitVec w.bits) := do
  let n ← draw (portDraws port w)
  let v := portValue port w n
  update fun s => { s with bus := portOperations .ioRead port w (asWord w v) ++ s.bus }
  pure v

/-- `IoWrite(port, n, v)`, each bus operation done once (20_memory.md R77). Log entry 24. -/
def State.ioWrite (s : State) (port : Word) (w : Width) (v : BitVec w.bits) : State :=
  { s with bus := portOperations .ioWrite port w (asWord w v) ++ s.bus }

end Sys2Proof.Machine
end

