-- ==== Sys2Proof/Machine/Tasks.lean ====
section
/-! DEFINITION. The task state segment and the task switch (45_protected_transfer.md R389, R392, R408 to R415). -/

namespace Sys2Proof.Machine

/-- What initiates a task switch (45_protected_transfer.md R410). -/
inductive SwitchKind where
  | jmp
  | call
  | int
  | iret
  deriving DecidableEq, Repr

/-- Words written at rising physical addresses (45_protected_transfer.md R412). -/
def State.writeWords (s : State) (a : Addr) (words : List Word) : State :=
  match words with
  | [] => s
  | v :: rest => (s.writeWord a v).writeWords (a + 2) rest

/-- The fourteen words a task switch saves, from offset 14 of the TSS on (45_protected_transfer.md R408, R412). -/
def State.taskWords (s : State) (rip : Word) (f : Flags) : List Word :=
  [rip, f.image, s.reg AX, s.reg CX, s.reg DX, s.reg BX, s.reg SP, s.reg BP, s.reg SI, s.reg DI,
    s.es.sel, s.cs.sel, s.ss.sel, s.ds.sel]

/-- Save the outgoing task into the current TSS; IRET clears NT in the saved image (45_protected_transfer.md R412). -/
def State.saveTask (s : State) (kind : SwitchKind) (rip : Word) : State :=
  let f := if kind = .iret then { s.flags with nt := false } else s.flags
  s.writeWords (s.tr.base + 14) (s.taskWords rip f)

/-- Write the type of a system descriptor at a physical address (45_protected_transfer.md R414). -/
def State.setSystemType (s : State) (a : Addr) (type : Byte) : State :=
  s.writeByte (a + 5) ((s.readByte (a + 5) &&& 0xF0) ||| type)

/-- The busy marks and the back link, by kind (45_protected_transfer.md R414). -/
def State.linkTasks (s : State) (kind : SwitchKind) (t : Descriptor) : State :=
  let old : Addr := s.gdtr.base + zeroExtend24 (s.tr.sel &&& 0xFFF8)
  match kind with
  | .jmp => (s.setSystemType old 1).setSystemType t.addr 3
  | .call => (s.setSystemType t.addr 3).writeWord t.base s.tr.sel
  | .int => (s.setSystemType t.addr 3).writeWord t.base s.tr.sel
  | .iret => s.setSystemType old 1

/-- The word at an offset of the incoming TSS. -/
def State.tssWord (s : State) (t : Descriptor) (off : Nat) : Word := s.readWord (t.base + BitVec.ofNat 24 off)

/-- Load the registers of the incoming task; the segment registers and LDTR hold its selectors with invalid caches
(45_protected_transfer.md R413, R414). From here on an exception returns to the new task's IP, a double fault too. Log
entries 31 and 34. -/
def State.installTask (s : State) (kind : SwitchKind) (tsel : Word) (t : Descriptor) : State :=
  let f := Flags.ofImage (s.tssWord t 16)
  { s.transfer (s.tssWord t 14) with
    tr := { sel := tsel, base := t.base, limit := t.limit }
    curIp := s.tssWord t 14
    flags := { f with nt := f.nt || kind == .call || kind == .int }
    regs := #v[s.tssWord t 18, s.tssWord t 20, s.tssWord t 22, s.tssWord t 24, s.tssWord t 26, s.tssWord t 28,
      s.tssWord t 30, s.tssWord t 32]
    es := s.es.nulled (s.tssWord t 34)
    cs := s.cs.nulled (s.tssWord t 36)
    ss := s.ss.nulled (s.tssWord t 38)
    ds := s.ds.nulled (s.tssWord t 40)
    ldtr := { s.ldtr with sel := s.tssWord t 42, valid := false }
    nmiInService := s.nmiInService && kind != .iret }

/-- The LDT of the incoming task (45_protected_transfer.md R413). -/
def taskLdt (sel : Word) : M Unit :=
  if isNull sel then pure ()
  else do
    require (fun _ => !selectorTi sel) (invalidTss (errSel sel))
    let d ← readDescriptor sel (invalidTss (errSel sel))
    require (fun _ => d.systemType == some 2) (invalidTss (errSel sel))
    require (fun _ => d.present) (invalidTss (errSel sel))
    update fun s => { s with ldtr := { sel := sel, base := d.base, limit := d.limit, valid := true } }

/-- CS of the incoming task (45_protected_transfer.md R413). -/
def taskCs (sel : Word) : M Unit := do
  require (fun _ => !isNull sel) (invalidTss (errSel sel))
  let d ← readDescriptor sel (invalidTss (errSel sel))
  require (fun _ => d.isCode) (invalidTss (errSel sel))
  require (fun _ => if d.isConforming then d.dpl ≤ selectorRpl sel else d.dpl == selectorRpl sel)
    (invalidTss (errSel sel))
  require (fun _ => d.present) (notPresent (errSel sel))
  update fun s => s.loadFrom .cs sel d

/-- SS of the incoming task (45_protected_transfer.md R413). -/
def taskSs (sel : Word) : M Unit := do
  require (fun _ => !isNull sel) (invalidTss (errSel sel))
  let d ← readDescriptor sel (invalidTss (errSel sel))
  require (fun s => selectorRpl sel == s.cpl && d.dpl == s.cpl && d.isWritableData) (invalidTss (errSel sel))
  require (fun _ => d.present) (stackFault (errSel sel))
  update fun s => s.loadFrom .ss sel d

/-- DS or ES of the incoming task (45_protected_transfer.md R413). -/
def taskData (r : SReg) (sel : Word) : M Unit :=
  if isNull sel then pure ()
  else do
    let d ← readDescriptor sel (invalidTss (errSel sel))
    require (fun s => d.isReadable && (d.isConforming || s.epl sel ≤ d.dpl)) (invalidTss (errSel sel))
    require (fun _ => d.present) (notPresent (errSel sel))
    update fun s => s.loadFrom r sel d

/-- The validation of the incoming task, in the new task (45_protected_transfer.md R413). -/
def validateTask : M Unit := do
  taskLdt (← look fun s => s.ldtr.sel)
  taskCs (← look fun s => s.cs.sel)
  taskSs (← look fun s => s.ss.sel)
  taskData .ds (← look fun s => s.ds.sel)
  taskData .es (← look fun s => s.es.sel)
  require (fun s => s.ip ≤ s.cs.limit) (generalProtection 0)

/-- Whether a task switch accesses a word at physical 0xFFFFFF: the words saved, those loaded, and the back link
(45_protected_transfer.md R412, R413, R414, 93_implementation_defined.md U1). -/
def State.switchCrossesTop (s : State) (kind : SwitchKind) (t : Descriptor) : Bool :=
  s.crossesTop (s.tr.base + 14) 14 || s.crossesTop (t.base + 14) 15 ||
    ((kind == .call || kind == .int) && s.crossesTop t.base 1)

/-- The end of a task switch: TS is set (45_protected_transfer.md R415), and the queues are discarded, with what the
loads of the new segments wrote to their descriptors (log entry 13). -/
def State.finishSwitch (s : State) : State := { s.flush with msw := { s.msw with ts := true } }

/-- The task switch, its steps in the order of 45_protected_transfer.md R410: `rip` is the IP saved for the outgoing
task. The caller has tested the type of the descriptor. Before any load of TR the outgoing task is saved at the reset
value of TR (R411). Log entry 33. -/
def taskSwitch (kind : SwitchKind) (tsel : Word) (t : Descriptor) (rip : Word) : M Unit := do
  require (fun _ => t.present) (notPresent (errSel tsel))
  require (fun _ => 0x002B ≤ t.limit.toNat) (invalidTss (errSel tsel))
  require (fun s => !s.switchCrossesTop kind t) (.fault .physicalOverrun)
  update fun s => ((s.saveTask kind rip).linkTasks kind t).installTask kind tsel t
  validateTask
  update State.finishSwitch

/-- The target of a task gate (45_protected_transfer.md R394, 60_exceptions.md R533). -/
def taskGateTarget (g : Descriptor) : M Descriptor := do
  let tsel := g.gateSelector
  require (fun _ => !isNull tsel && !selectorTi tsel) (generalProtection (errSel tsel))
  let t ← readDescriptor tsel (generalProtection (errSel tsel))
  require (fun _ => t.systemType == some 1) (generalProtection (errSel tsel))
  pure t

/-- The stack of an inner level: its initial SP, the cache of its SS, and the descriptor of it
(45_protected_transfer.md R389, R392). -/
def innerStack (n : Nat) : M (Word × SegReg × Descriptor) := do
  check fun s => if 4 * n + 5 ≤ s.tr.limit.toNat then none else some (invalidTss (errSel s.tr.sel))
  let nsp ← (do readPhysical (← look fun s => s.tr.base + BitVec.ofNat 24 (2 + 4 * n)))
  let nss ← (do readPhysical (← look fun s => s.tr.base + BitVec.ofNat 24 (4 + 4 * n)))
  require (fun _ => !isNull nss) (invalidTss 0)
  let d ← readDescriptor nss (invalidTss (errSel nss))
  require (fun _ => selectorRpl nss == n && d.dpl == n) (invalidTss (errSel nss))
  require (fun _ => d.isWritableData) (invalidTss (errSel nss))
  require (fun _ => d.present) (stackFault (errSel nss))
  pure (nsp, d.toSegReg nss, d)

/-- CS with the CPL in its low bits (45_protected_transfer.md R384). -/
def withRpl (sel : Word) (level : Nat) : Word := (sel &&& 0xFFFC) ||| BitVec.ofNat 16 level

/-- Entry into a code segment at an inner level: old SS, old SP and `words` on the new stack
(45_protected_transfer.md R388, R391, 60_exceptions.md R532). -/
def enterInner (c : Descriptor) (csel eoff : Word) (words : M (List Word)) : M Unit := do
  let p ← innerStack c.dpl
  let ws ← words
  check fun s => frameStop s p.2.1 p.1 (ws.length + 2)
  require (fun _ => eoff ≤ c.limit) (generalProtection 0)
  update fun s =>
    let pushed := s.writeFrame p.2.1 p.1 (s.ss.sel :: s.reg SP :: ws)
    let stacked := ((pushed.setAccessed p.2.2).setSeg .ss p.2.1).setReg SP (p.1 - BitVec.ofNat 16 (2 * (ws.length + 2)))
    (stacked.loadFrom .cs (withRpl csel c.dpl) c).transfer eoff

/-- Entry into a code segment at the same level: `words` on the current stack (45_protected_transfer.md R384,
60_exceptions.md R530). -/
def enterSame (c : Descriptor) (csel eoff : Word) (words : List Word) : M Unit := do
  check fun s => frameStop s s.ss (s.reg SP) words.length
  require (fun _ => eoff ≤ c.limit) (generalProtection 0)
  update fun s =>
    let pushed := (s.writeFrame s.ss (s.reg SP) words).setReg SP (s.reg SP - BitVec.ofNat 16 (2 * words.length))
    (pushed.loadFrom .cs (withRpl csel s.cpl) c).transfer eoff

end Sys2Proof.Machine
end

