-- ==== Sys2Proof/Machine/Ops.lean ====
section
/-! DEFINITION. Taking an exception or interrupt, returning from one, and how the effect of an instruction becomes a
step (60_exceptions.md). -/

namespace Sys2Proof.Machine

/-! Entry in real address mode. -/

/-- The address of a vector in the interrupt table of real mode (60_exceptions.md R520). -/
def State.vectorAddr (s : State) (v : Byte) : Addr := s.idtr.base + (v.setWidth 24 <<< 2)

/-- The frame, the flags and the new CS:IP of a real-mode entry whose vector lies in the table (60_exceptions.md R520);
the three pushes may not wrap (R545), and no word of the vector may lie at physical 0xFFFFFF
(93_implementation_defined.md U1). -/
def enterVector (v : Byte) (rip : Word) : M Unit := do
  requireStack 3
  require (fun s => !s.crossesTop (s.vectorAddr v) 2) (.fault .physicalOverrun)
  update fun s =>
    let pushed := (s.writeFrame s.ss (s.reg SP) [s.flags.image, s.cs.sel, rip]).setReg SP (s.reg SP - 6)
    let off := pushed.readWord (s.vectorAddr v)
    let sel := pushed.readWord (s.vectorAddr v + 2)
    ({ pushed with flags := s.flags.enterReal, cs := realSegReg sel }).transfer off

/-- `EnterReal(v, rcs, rip)` (60_exceptions.md R520, R545). A vector outside the table is the exception 8 of the current
instruction, which no single-step trap follows (R507). -/
def enterReal (v : Byte) (rip : Word) : M Unit := do
  let limit ← look fun s => s.idtr.limit.toNat
  if 4 * v.toNat + 3 ≤ limit then enterVector v rip
  else if v = 8 ∨ v = 13 ∨ limit < 35 then stop .shutdown
  else do
    update fun s => { s with trap := false }
    enterVector 8 (← look fun s => s.curIp)

/-! Entry in protected mode. -/

/-- The error code that names the IDT entry of a vector (60_exceptions.md R531). -/
def idtError (v : Byte) : Word := (zeroExtend16 v <<< 3) ||| 2

/-- Entry through an interrupt or trap gate (60_exceptions.md R530, R532). -/
def enterGate (g : Descriptor) (rip : Word) (err : Option Word) : M Unit := do
  let csel := g.gateSelector
  require (fun _ => !isNull csel) (generalProtection 0)
  let c ← readDescriptor csel (generalProtection (errSel csel))
  require (fun s => c.isCode && c.dpl ≤ s.cpl) (generalProtection (errSel csel))
  require (fun _ => c.present) (notPresent (errSel csel))
  let words ← look fun s => [s.flags.image, s.cs.sel, rip] ++ err.toList
  let cpl ← look State.cpl
  if c.isConforming || c.dpl == cpl then enterSame c csel g.limit words
  else enterInner c csel g.limit (pure words)
  update fun s => { s with flags := s.flags.enterGate (g.systemType == some 7) }

/-- Entry through a task gate; the error code goes to the new task's stack (60_exceptions.md R533) before the queues are
discarded (log entry 13). -/
def enterTaskGate (g : Descriptor) (rip : Word) (err : Option Word) : M Unit := do
  let t ← taskGateTarget g
  taskSwitch .int g.gateSelector t rip
  match err with
  | none => pure ()
  | some e => do
    push16 e
    update State.flush

/-- `EnterProt(v, rcs, rip, soft, err)` (60_exceptions.md R526, R537); CS still holds `rcs`. -/
def enterProt (v : Byte) (rip : Word) (soft : Bool) (err : Option Word) : M Unit := do
  require (fun s => 8 * v.toNat + 7 ≤ s.idtr.limit.toNat) (generalProtection (idtError v))
  let g ← (do readDescriptorAt (← look fun s => s.idtr.base + BitVec.ofNat 24 (8 * v.toNat)))
  require (fun _ => g.systemType == some 5 || g.systemType == some 6 || g.systemType == some 7)
    (generalProtection (idtError v))
  require (fun s => !soft || s.cpl ≤ g.dpl) (generalProtection (idtError v))
  require (fun _ => g.present) (notPresent (idtError v))
  if g.systemType == some 5 then enterTaskGate g rip err else enterGate g rip err

/-- THE interrupt sequence: what an exception, an interrupt and a software interrupt share (60_exceptions.md R500).
`rip` is the return offset of R502, `soft` marks INT n, INT 3 and INTO, `err` is the error code of R531, which only
protected mode pushes. -/
def enter (v : Byte) (rip : Word) (soft : Bool) (err : Option Word) : M Unit := do
  let pe ← look fun s => s.msw.pe
  if pe then enterProt v rip soft err else enterReal v rip

/-! Delivery. -/

/-- Shutdown (60_exceptions.md R545). Log entry 40. -/
def State.enterShutdown (s : State) : State :=
  { s with
    shutdown := true, halted := false, ip := s.curIp, pfx := noPrefixes, trap := false, repeating := none
    bus := .shutdown :: s.bus }

/-- The end of an instruction: its prefixes no longer apply. -/
def State.endInstruction (s : State) : State := { s with pfx := noPrefixes }

/-- Exception 8 with error code 0; an exception during it is shutdown (60_exceptions.md R536). Its return address is that
of the first exception, or the new task's IP where the entry of that exception failed in a new task (log entry 31). -/
def doubleFault (s : State) : Host.Outcome State Fault Refusal :=
  match enter 8 s.curIp false (some 0) s with
  | .ok _ t => .next t
  | .error (.fault f) _ => .fault f
  | .error (.refused r) _ => .refused r
  | .error (.exc _ _) t => .next t.enterShutdown
  | .error .shutdown t => .next t.enterShutdown

/-- Take the exception `v` of the current instruction: the return address is `cur_ip` (60_exceptions.md R502), an
exception during the entry is a double fault (R536). -/
def takeException (v : Byte) (err : Option Word) (s : State) : Host.Outcome State Fault Refusal :=
  match enter v s.curIp false err s.endInstruction with
  | .ok _ t => .next { t with trap := false }
  | .error (.fault f) _ => .fault f
  | .error (.refused r) _ => .refused r
  | .error (.exc _ _) t => doubleFault { t with trap := false }
  | .error .shutdown t => .next t.enterShutdown

/-- Take an interrupt with return offset `rip`: an exception during the entry is taken as itself, with EXT set for an
external one (60_exceptions.md R531, R536). -/
def takeInterrupt (v : Byte) (rip : Word) (external : Bool) (s : State) : Host.Outcome State Fault Refusal :=
  match enter v rip false none s.endInstruction with
  | .ok _ t => .next { t with trap := false, halted := false, shutdown := false }
  | .error (.fault f) _ => .fault f
  | .error (.refused r) _ => .refused r
  | .error (.exc y err) t =>
    takeException y (err.map fun e => if external then e ||| 1 else e) { t with halted := false, shutdown := false }
  | .error .shutdown t => .next t.enterShutdown

/-- What the effect of an instruction comes to: vector 16 is taken as an external interrupt (60_exceptions.md R500,
R531), every other exception as an exception. -/
def settle (r : EStateM.Result Stop State Unit) : Host.Outcome State Fault Refusal :=
  match r with
  | .ok _ t => .next t.endInstruction
  | .error (.exc v err) t => if v = 16 then takeInterrupt 16 t.curIp true t else takeException v err t
  | .error .shutdown t => .next t.enterShutdown
  | .error (.fault f) _ => .fault f
  | .error (.refused r) _ => .refused r

/-- The IOPL test of the LOCK prefix of the instruction being executed (46_processor_control.md R431). -/
def State.lockAllowed (s : State) : Bool := !s.pfx.lock || s.mayDoIo

/-- Perform a string instruction, which may carry a repeat prefix. -/
def performString (m : M Unit) (s : State) : Host.Outcome State Fault Refusal :=
  if s.lockAllowed then settle (m s) else settle (.error (generalProtection 0) s)

/-- Perform any other instruction: a repeat prefix before it is unspecified (93_implementation_defined.md U6). Log
entry 10. -/
def perform (m : M Unit) (s : State) : Host.Outcome State Fault Refusal :=
  if s.lockAllowed then
    if s.pfx.rep = none then settle (m s) else .refused .repeatPrefix
  else settle (.error (generalProtection 0) s)

/-- Whether an offset lies within the prefetch window after the LMSW that set PE (20_memory.md R141). -/
def RealQueue.holds (q : RealQueue) (off : Word) : Bool := (off - q.off).toNat < Config.prefetchWindow

/-- Whether the instruction at hand may have been decoded in real mode: it begins within the prefetch window after the
LMSW that set PE, and no control transfer has come between (20_memory.md R141, 70_reset_and_hazards.md R614). Log entry
32. -/
def State.decodedReal (s : State) : Bool :=
  match s.realQueue with
  | none => false
  | some q => q.decoded && q.holds s.curIp

/-- The queues hold bytes of real mode still, but no instruction decoded there. -/
def State.noneDecoded (s : State) : State :=
  { s with realQueue := s.realQueue.map fun q => { q with decoded := false } }

/-- Perform an instruction that real mode does not have (47_protection_control.md R439). One that may have been decoded
in real mode is an invalid opcode by a free choice; if it was not, no later one was. -/
def performProtected (m : M Unit) (s : State) : Host.Outcome State Fault Refusal :=
  if !s.msw.pe then takeException 6 none s
  else if !s.decodedReal then perform m s
  else if Config.freeBit s.free then takeException 6 none { s with free := s.free + 1 }
  else perform m { s.noneDecoded with free := s.free + 1 }

/-! Return. -/

/-- DS or ES after a return to a less privileged level: null if it holds a more privileged segment
(45_protected_transfer.md R399). -/
def SegReg.dropPrivileged (g : SegReg) (cpl : Nat) : SegReg :=
  match g.rights with
  | .null => g
  | .real => g
  | .descr ar =>
    if (!arBit ar 3 || !arBit ar 2) && (ar.extractLsb' 5 2).toNat < cpl then g.nulled 0 else g

/-- The tests of the code segment a return names (45_protected_transfer.md R396). -/
def returnTarget (csel off : Word) : M Descriptor := do
  require (fun _ => !isNull csel) (generalProtection 0)
  require (fun s => s.cpl ≤ selectorRpl csel) (generalProtection (errSel csel))
  let c ← readDescriptor csel (generalProtection (errSel csel))
  require (fun _ => c.isCode) (generalProtection (errSel csel))
  require (fun _ => if c.isConforming then c.dpl ≤ selectorRpl csel else c.dpl == selectorRpl csel)
    (generalProtection (errSel csel))
  require (fun _ => c.present) (notPresent (errSel csel))
  require (fun _ => off ≤ c.limit) (generalProtection 0)
  pure c

/-- The tests of the stack segment of the outer level (45_protected_transfer.md R398). -/
def outerStack (nss : Word) (n : Nat) : M Descriptor := do
  require (fun _ => !isNull nss) (generalProtection 0)
  let d ← readDescriptor nss (generalProtection (errSel nss))
  require (fun _ => selectorRpl nss == n && d.dpl == n) (generalProtection (errSel nss))
  require (fun _ => d.isWritableData) (generalProtection (errSel nss))
  require (fun _ => d.present) (stackFault (errSel nss))
  pure d

/-- The return to `csel:off` within the task (45_protected_transfer.md R396 to R399): `size` bytes of frame and `imm`
bytes of parameters leave the stack. -/
def returnWithinTask (csel off size imm : Word) : M Unit := do
  let c ← returnTarget csel off
  let same ← look fun s => selectorRpl csel == s.cpl
  if same then
    update fun s => ((s.loadFrom .cs csel c).setReg SP (s.reg SP + size + imm)).transfer off
  else do
    let nsp ← (do segRead .ss (← look fun s => s.reg SP + size + imm) .word)
    let nss ← (do segRead .ss (← look fun s => s.reg SP + size + imm + 2) .word)
    let d ← outerStack nss (selectorRpl csel)
    update fun s =>
      let t := (((s.loadFrom .cs csel c).loadFrom .ss nss d).setReg SP (nsp + imm)).transfer off
      { t with ds := t.ds.dropPrivileged (selectorRpl csel), es := t.es.dropPrivileged (selectorRpl csel) }

/-- IRET in real mode (44_control_transfer.md R371). -/
def returnReal : M Unit := do
  let off ← (do segRead .ss (← look fun s => s.reg SP) .word)
  let sel ← (do segRead .ss (← look fun s => s.reg SP + 2) .word)
  let f ← (do segRead .ss (← look fun s => s.reg SP + 4) .word)
  update fun s =>
    { (({ s with cs := realSegReg sel }).transfer off).setReg SP (s.reg SP + 6) with
      flags := Flags.loadReal f, nmiInService := false }

/-- IRET with NT = 1: back to the task the back link names (45_protected_transfer.md R403). -/
def returnToTask : M Unit := do
  let bsel ← (do readPhysical (← look fun s => s.tr.base))
  require (fun _ => !selectorTi bsel && !isNull bsel) (invalidTss (errSel bsel))
  let t ← readDescriptor bsel (invalidTss (errSel bsel))
  require (fun _ => t.systemType == some 3) (invalidTss (errSel bsel))
  require (fun _ => t.present) (notPresent (errSel bsel))
  taskSwitch .iret bsel t (← look fun s => s.ip)

/-- IRET with NT = 0 in protected mode (45_protected_transfer.md R404, R405). -/
def returnProtected : M Unit := do
  let off ← (do segRead .ss (← look fun s => s.reg SP) .word)
  let csel ← (do segRead .ss (← look fun s => s.reg SP + 2) .word)
  let f ← (do segRead .ss (← look fun s => s.reg SP + 4) .word)
  let flags ← look fun s => s.flags.loadProtected s.cpl f
  returnWithinTask csel off 6 0
  update fun s => { s with flags := flags, nmiInService := false }

/-- THE return from an interrupt or exception, IRET (44_control_transfer.md R371, 45_protected_transfer.md R403,
R404). -/
def returnFromInterrupt : M Unit := do
  let pe ← look fun s => s.msw.pe
  let nt ← look fun s => s.flags.nt
  if !pe then returnReal else if nt then returnToTask else returnProtected

end Sys2Proof.Machine
end

