-- ==== Sys2Proof/Machine/Operands.lean ====
section
/-! DEFINITION. Effective addresses and the operands of the mod reg r/m byte (30_encoding.md R155 to R162). -/

namespace Sys2Proof.Machine

/-- `base_index` of 30_encoding.md R158, modulo 2^16. -/
def State.baseIndex (s : State) (rm : Reg) : Word :=
  match rm.toNat with
  | 0 => s.reg BX + s.reg SI
  | 1 => s.reg BX + s.reg DI
  | 2 => s.reg BP + s.reg SI
  | 3 => s.reg BP + s.reg DI
  | 4 => s.reg SI
  | 5 => s.reg DI
  | 6 => s.reg BP
  | _ => s.reg BX

/-- The effective address, modulo 2^16 (30_encoding.md R158, R159). -/
def State.ea (s : State) : MemOp → Word
  | .base rm => s.baseIndex rm
  | .base8 rm disp => s.baseIndex rm + signExtend16 disp
  | .base16 rm disp => s.baseIndex rm + disp
  | .direct disp => disp

/-- Whether an `r/m` value uses BP as base (30_encoding.md R160). -/
def usesBp (rm : Reg) : Bool := rm == 2 || rm == 3 || rm == 6

/-- The default segment of a memory operand: SS with BP as base, else DS (30_encoding.md R160). -/
def defaultSeg : MemOp → SReg
  | .base rm => if usesBp rm then .ss else .ds
  | .base8 rm _ => if usesBp rm then .ss else .ds
  | .base16 rm _ => if usesBp rm then .ss else .ds
  | .direct _ => .ds

/-- A segment override prefix replaces the default (30_encoding.md R160). -/
def State.overrideOr (s : State) (r : SReg) : SReg := s.pfx.seg.getD r

/-- `ea_seg` (00_scope.md R12, 30_encoding.md R160). -/
def State.eaSeg (s : State) (m : MemOp) : SReg := s.overrideOr (defaultSeg m)

/-- Why an access to a memory operand at `EA + disp` may not happen. -/
def State.memStop (s : State) (m : MemOp) (disp : Word) (w : Width) (write : Bool) : Option Stop :=
  s.accessStop (s.eaSeg m) (s.ea m + disp) w write

/-- The memory operand at `EA + disp`. -/
def State.memValue (s : State) (m : MemOp) (disp : Word) (w : Width) : BitVec w.bits :=
  s.load (s.eaSeg m) (s.ea m + disp) w

/-- Store to the memory operand at `EA + disp`. -/
def State.setMem (s : State) (m : MemOp) (disp : Word) (w : Width) (v : BitVec w.bits) : State :=
  s.store (s.eaSeg m) (s.ea m + disp) w v

/-- Why an r/m operand may not be accessed; a register operand never faults (30_encoding.md R161). -/
def State.rmStop (s : State) (rm : Rm) (w : Width) (write : Bool) : Option Stop :=
  match rm with
  | .reg _ => none
  | .mem m => s.memStop m 0 w write

/-- `RM_read(w)` after its check (30_encoding.md R161). -/
def State.rmValue (s : State) (rm : Rm) (w : Width) : BitVec w.bits :=
  match rm with
  | .reg r => s.getReg w r
  | .mem m => s.memValue m 0 w

/-- `RM_write(w, v)` after its check (30_encoding.md R161). -/
def State.setRm (s : State) (rm : Rm) (w : Width) (v : BitVec w.bits) : State :=
  match rm with
  | .reg r => s.putReg w r v
  | .mem m => s.setMem m 0 w v

/-- `RM_read(w)` (30_encoding.md R161). -/
def readRm (rm : Rm) (w : Width) : M (BitVec w.bits) := do
  check fun s => s.rmStop rm w false
  look fun s => s.rmValue rm w

/-- `RM_write(w, v)` (30_encoding.md R161). -/
def writeRm (rm : Rm) (w : Width) (v : BitVec w.bits) : M Unit := do
  check fun s => s.rmStop rm w true
  update fun s => s.setRm rm w v

/-- The first two or three words of a memory operand, each checked on its own before any is used (20_memory.md R113). -/
def State.wordsStop (s : State) (m : MemOp) (count : Nat) (write : Bool) : Option Stop :=
  match count with
  | 0 => none
  | k + 1 =>
    match s.wordsStop m k write with
    | some e => some e
    | none => s.memStop m (BitVec.ofNat 16 (2 * k)) .word write

/-- The word at `EA + 2k` (20_memory.md R113). -/
def State.memWord (s : State) (m : MemOp) (k : Nat) : Word := s.memValue m (BitVec.ofNat 16 (2 * k)) .word

/-- A far pointer in memory: the offset word, then the selector word (20_memory.md R71). -/
def readPointer (m : MemOp) : M (Word × Word) := do
  check fun s => s.wordsStop m 2 false
  look fun s => (s.memWord m 0, s.memWord m 1)

/-- The width an immediate gives its instruction (30_encoding.md R162). -/
abbrev immWidth : Imm → Width
  | .byte _ => .byte
  | .word _ => .word

/-- The immediate as a value of its width (30_encoding.md R162). -/
def immValue (i : Imm) : BitVec (immWidth i).bits :=
  match i with
  | .byte v => v
  | .word v => v

/-- The width of an instruction of the Immed group (30_encoding.md R152). -/
abbrev aluWidth : AluImm → Width
  | .byte _ _ => .byte
  | .word _ => .word
  | .sx _ => .word

/-- The immediate of the Immed group, sign-extended for `sw = 11` (30_encoding.md R152, R162). -/
def aluValue (i : AluImm) : BitVec (aluWidth i).bits :=
  match i with
  | .byte _ v => v
  | .word v => v
  | .sx v => signExtend16 v

/-- The immediate of PUSH and of the three-operand IMUL (40_data_transfer.md R212, 41_arithmetic.md R269). -/
def sxValue : SxImm → Word
  | .word v => v
  | .sx v => signExtend16 v

/-- `AL` or `AX` (43_string.md R310). -/
def State.acc (s : State) (w : Width) : BitVec w.bits := s.getReg w 0

/-- `AL <- v` or `AX <- v`. -/
def State.setAcc (s : State) (w : Width) (v : BitVec w.bits) : State := s.putReg w 0 v

/-- The `mod` field of an r/m operand's encoding (30_encoding.md R155 to R157). -/
def rmMode (rm : Rm) : BitVec 2 :=
  match rm with
  | .reg _ => 3
  | .mem (.base _) => 0
  | .mem (.base8 _ _) => 1
  | .mem (.base16 _ _) => 2
  | .mem (.direct _) => 0

/-- The `r/m` field of an r/m operand's encoding (30_encoding.md R155 to R157). -/
def rmNumber (rm : Rm) : Reg :=
  match rm with
  | .reg r => r
  | .mem (.base b) => b
  | .mem (.base8 b _) => b
  | .mem (.base16 b _) => b
  | .mem (.direct _) => 6

end Sys2Proof.Machine
end

