-- ==== Sys2Proof/Machine/Transfer.lean ====
section
/-! DEFINITION. Control transfers: targets within a segment, and intersegment JMP and CALL of both modes
(44_control_transfer.md, 45_protected_transfer.md). -/

namespace Sys2Proof.Machine

/-- Whether a target lies in the current code segment: in real mode always (44_control_transfer.md R330). -/
def State.targetInLimit (s : State) (t : Word) : Bool := !s.msw.pe || t ≤ s.cs.limit

/-- The limit rule of a transfer within the segment (44_control_transfer.md R330). -/
def requireTarget (t : Word) : M Unit := require (fun s => s.targetInLimit t) (generalProtection 0)

/-- A jump within the segment. -/
def jumpTo (t : Word) : M Unit := do
  requireTarget t
  update fun s => s.transfer t

/-- The target of a relative transfer with an 8-bit displacement; IP holds `next_ip` (44_control_transfer.md R330). -/
def State.shortTarget (s : State) (disp : Byte) : Word := s.ip + signExtend16 disp

/-- A conditional jump (44_control_transfer.md R340). -/
def jumpIf (cond : State → Bool) (disp : Byte) : M Unit := do
  let taken ← look cond
  let t ← look fun s => s.shortTarget disp
  if taken then jumpTo t else pure ()

/-- A call within the segment: the tests of the target and of the stack come first (44_control_transfer.md R336). In real
mode a push that wraps is shutdown (20_memory.md R86). -/
def callTo (t : Word) : M Unit := do
  requireTarget t
  requireStack 1
  push16 (← look fun s => s.ip)
  update fun s => s.transfer t

/-- The tests of a code segment named directly by JMP or CALL (45_protected_transfer.md R381). -/
def checkCodeDirect (d : Descriptor) (sel off : Word) : M Unit := do
  require (fun _ => d.isCode) (generalProtection (errSel sel))
  require (fun s => if d.isConforming then d.dpl ≤ s.cpl else d.dpl == s.cpl && selectorRpl sel ≤ s.cpl)
    (generalProtection (errSel sel))
  require (fun _ => d.present) (notPresent (errSel sel))
  require (fun _ => off ≤ d.limit) (generalProtection 0)

/-- Completion of a JMP to a code segment (45_protected_transfer.md R384). -/
def jumpSegment (d : Descriptor) (sel off : Word) : M Unit :=
  update fun s => (s.loadFrom .cs (withRpl sel s.cpl) d).transfer off

/-- Completion of a CALL to a code segment at the same level (45_protected_transfer.md R384). -/
def callSegment (d : Descriptor) (sel off : Word) : M Unit := do
  let words ← look fun s => [s.cs.sel, s.ip]
  enterSame d sel off words

/-- The parameter words of an inter-level CALL, the last first (45_protected_transfer.md R390). -/
def readParameters (count : Nat) : M (List Word) :=
  match count with
  | 0 => pure []
  | k + 1 => do
    let v ← (do segRead .ss (← look fun s => s.reg SP + BitVec.ofNat 16 (2 * k)) .word)
    let rest ← readParameters k
    pure (v :: rest)

/-- The words below old SS and old SP of an inter-level CALL (45_protected_transfer.md R391). -/
def callWords (count : Nat) : M (List Word) := do
  let ps ← readParameters count
  look fun s => ps ++ [s.cs.sel, s.ip]

/-- The tests common to every use of a call gate (45_protected_transfer.md R385). -/
def checkCallGate (g : Descriptor) (sel : Word) : M Descriptor := do
  require (fun s => s.epl sel ≤ g.dpl) (generalProtection (errSel sel))
  require (fun _ => g.present) (notPresent (errSel sel))
  let csel := g.gateSelector
  require (fun _ => !isNull csel) (generalProtection 0)
  let c ← readDescriptor csel (generalProtection (errSel csel))
  require (fun _ => c.isCode) (generalProtection (errSel csel))
  require (fun s => c.dpl ≤ s.cpl) (generalProtection (errSel csel))
  require (fun _ => c.present) (notPresent (errSel csel))
  pure c

/-- JMP through a call gate (45_protected_transfer.md R386). -/
def jumpGate (g : Descriptor) (sel : Word) : M Unit := do
  let c ← checkCallGate g sel
  require (fun s => c.isConforming || c.dpl == s.cpl) (generalProtection (errSel g.gateSelector))
  require (fun _ => g.limit ≤ c.limit) (generalProtection 0)
  jumpSegment c g.gateSelector g.limit

/-- CALL through a call gate, to the same or an inner level (45_protected_transfer.md R387, R388). -/
def callGate (g : Descriptor) (sel : Word) : M Unit := do
  let c ← checkCallGate g sel
  let cpl ← look State.cpl
  if c.isConforming || c.dpl == cpl then do
    require (fun _ => g.limit ≤ c.limit) (generalProtection 0)
    callSegment c g.gateSelector g.limit
  else enterInner c g.gateSelector g.limit (callWords g.wordCount)

/-- JMP or CALL through a task gate (45_protected_transfer.md R394). -/
def switchByGate (kind : SwitchKind) (g : Descriptor) (sel : Word) : M Unit := do
  require (fun s => s.epl sel ≤ g.dpl) (generalProtection (errSel sel))
  require (fun _ => g.present) (notPresent (errSel sel))
  let t ← taskGateTarget g
  taskSwitch kind g.gateSelector t (← look fun s => s.ip)

/-- JMP or CALL that names an available TSS (45_protected_transfer.md R393). -/
def switchByTss (kind : SwitchKind) (t : Descriptor) (sel : Word) : M Unit := do
  require (fun _ => !selectorTi sel) (generalProtection (errSel sel))
  require (fun s => s.epl sel ≤ t.dpl) (generalProtection (errSel sel))
  taskSwitch kind sel t (← look fun s => s.ip)

/-- JMP intersegment in protected mode, by the descriptor the selector names (45_protected_transfer.md R382). -/
def jumpFarProtected (off sel : Word) : M Unit := do
  require (fun _ => !isNull sel) (generalProtection 0)
  let d ← readDescriptor sel (generalProtection (errSel sel))
  match d.systemType with
  | none => do
    checkCodeDirect d sel off
    jumpSegment d sel off
  | some t =>
    if t = 4 then jumpGate d sel
    else if t = 5 then switchByGate .jmp d sel
    else if t = 1 then switchByTss .jmp d sel
    else stop (generalProtection (errSel sel))

/-- CALL intersegment in protected mode, by the descriptor the selector names (45_protected_transfer.md R383). -/
def callFarProtected (off sel : Word) : M Unit := do
  require (fun _ => !isNull sel) (generalProtection 0)
  let d ← readDescriptor sel (generalProtection (errSel sel))
  match d.systemType with
  | none => do
    checkCodeDirect d sel off
    callSegment d sel off
  | some t =>
    if t = 4 then callGate d sel
    else if t = 5 then switchByGate .call d sel
    else if t = 1 then switchByTss .call d sel
    else stop (generalProtection (errSel sel))

/-- JMP intersegment (44_control_transfer.md R334). -/
def jumpFar (off sel : Word) : M Unit := do
  let pe ← look fun s => s.msw.pe
  if pe then jumpFarProtected off sel
  else update fun s => ({ s with cs := realSegReg sel }).transfer off

/-- CALL intersegment in real mode: CS is pushed first, then IP (44_control_transfer.md R338). Pushes that wrap are
shutdown (20_memory.md R86). -/
def callFarReal (off sel : Word) : M Unit := do
  requireStack 2
  push16 (← look fun s => s.cs.sel)
  push16 (← look fun s => s.ip)
  update fun s => ({ s with cs := realSegReg sel }).transfer off

/-- CALL intersegment (44_control_transfer.md R338). -/
def callFar (off sel : Word) : M Unit := do
  let pe ← look fun s => s.msw.pe
  if pe then callFarProtected off sel else callFarReal off sel

/-- RET within the segment, discarding `imm` more bytes (44_control_transfer.md R361, R362). -/
def returnNear (imm : Word) : M Unit := do
  let t ← (do segRead .ss (← look fun s => s.reg SP) .word)
  requireTarget t
  update fun s => (s.transfer t).setReg SP (s.reg SP + 2 + imm)

/-- RET intersegment, discarding `imm` more bytes (44_control_transfer.md R363, R364, 45_protected_transfer.md R396). -/
def returnFar (imm : Word) : M Unit := do
  let off ← (do segRead .ss (← look fun s => s.reg SP) .word)
  let sel ← (do segRead .ss (← look fun s => s.reg SP + 2) .word)
  let pe ← look fun s => s.msw.pe
  if pe then returnWithinTask sel off 4 imm
  else update fun s => (({ s with cs := realSegReg sel }).transfer off).setReg SP (s.reg SP + 4 + imm)

end Sys2Proof.Machine
end

