-- ==== Sys2Proof/Machine/Arithmetic.lean ====
section
/-! DEFINITION. The arithmetic instructions, and the two-operand shapes they share with the logic instructions
(41_arithmetic.md). -/

namespace Sys2Proof.Machine

/-- A two-operand computation: from the number of its first free value, the flags and the operands, the result and
the new flags. -/
abbrev AluOp (n : Nat) := Nat → Flags → BitVec n → BitVec n → BitVec n × Flags

/-- ADD (R243). -/
def addOp {n : Nat} : AluOp n := fun _ f a b => (addResult a b false, addFlags f a b false)

/-- ADC (R246). -/
def adcOp {n : Nat} : AluOp n := fun _ f a b => (addResult a b f.cf, addFlags f a b f.cf)

/-- SUB, and CMP, which discards the result (R251, R259). -/
def subOp {n : Nat} : AluOp n := fun _ f a b => (subResult a b false, subFlags f a b false)

/-- SBB (R254). -/
def sbbOp {n : Nat} : AluOp n := fun _ f a b => (subResult a b f.cf, subFlags f a b f.cf)

/-- An instruction whose destination is r/m: the write test comes before the read (20_memory.md R111). `frees` is how
many free values it draws. -/
def aluToRm (w : Width) (rm : Rm) (src : State → BitVec w.bits) (frees : Nat) (op : AluOp w.bits) : M Unit := do
  check fun s => s.rmStop rm w true
  let n ← draw frees
  update fun s =>
    let p := op n s.flags (s.rmValue rm w) (src s)
    { s.setRm rm w p.1 with flags := p.2 }

/-- An instruction whose destination is a register and whose source is r/m. -/
def aluToReg (w : Width) (r : Reg) (rm : Rm) (frees : Nat) (op : AluOp w.bits) : M Unit := do
  check fun s => s.rmStop rm w false
  let n ← draw frees
  update fun s =>
    let p := op n s.flags (s.getReg w r) (s.rmValue rm w)
    { s.putReg w r p.1 with flags := p.2 }

/-- An instruction on the accumulator and an immediate. -/
def aluToAcc (w : Width) (v : BitVec w.bits) (frees : Nat) (op : AluOp w.bits) : M Unit := do
  let n ← draw frees
  update fun s =>
    let p := op n s.flags (s.acc w) v
    { s.setAcc w p.1 with flags := p.2 }

/-- r/m with reg to either (30_encoding.md R152). -/
def aluRmReg (w : Width) (d : Dir) (rm : Rm) (r : Reg) (frees : Nat) (op : AluOp w.bits) : M Unit :=
  match d with
  | .toRm => aluToRm w rm (fun s => s.getReg w r) frees op
  | .toReg => aluToReg w r rm frees op

/-- An instruction that writes only the flags of `op` on two operands: r/m need only be readable. -/
def aluTest (w : Width) (rm : Rm) (frees : Nat) (op : AluOp w.bits) (a b : State → BitVec w.bits) : M Unit := do
  check fun s => s.rmStop rm w false
  let n ← draw frees
  update fun s => { s with flags := (op n s.flags (a s) (b s)).2 }

/-! ADD, ADC. -/

/-- ADD r/m and reg (R243). -/
def execAddRmReg (w : Width) (d : Dir) (rm : Rm) (r : Reg) (s : State) : Host.Outcome State Fault Refusal :=
  perform (aluRmReg w d rm r 0 addOp) s

/-- ADD r/m, imm (R244). -/
def execAddRmImm (rm : Rm) (i : AluImm) (s : State) : Host.Outcome State Fault Refusal :=
  perform (aluToRm (aluWidth i) rm (fun _ => aluValue i) 0 addOp) s

/-- ADD acc, imm (R245). -/
def execAddAccImm (i : Imm) (s : State) : Host.Outcome State Fault Refusal :=
  perform (aluToAcc (immWidth i) (immValue i) 0 addOp) s

/-- ADC r/m and reg (R246). -/
def execAdcRmReg (w : Width) (d : Dir) (rm : Rm) (r : Reg) (s : State) : Host.Outcome State Fault Refusal :=
  perform (aluRmReg w d rm r 0 adcOp) s

/-- ADC r/m, imm (R247). -/
def execAdcRmImm (rm : Rm) (i : AluImm) (s : State) : Host.Outcome State Fault Refusal :=
  perform (aluToRm (aluWidth i) rm (fun _ => aluValue i) 0 adcOp) s

/-- ADC acc, imm (R248). -/
def execAdcAccImm (i : Imm) (s : State) : Host.Outcome State Fault Refusal :=
  perform (aluToAcc (immWidth i) (immValue i) 0 adcOp) s

/-! INC, DEC, NEG. -/

/-- A one-operand instruction on r/m: the result and the flags from the operand. -/
def unaryRm (w : Width) (rm : Rm) (op : Flags → BitVec w.bits → BitVec w.bits × Flags) : M Unit := do
  check fun s => s.rmStop rm w true
  update fun s =>
    let p := op s.flags (s.rmValue rm w)
    { s.setRm rm w p.1 with flags := p.2 }

/-- INC (R249). -/
def incOp {n : Nat} (f : Flags) (a : BitVec n) : BitVec n × Flags := (addResult a 1 false, incFlags f a)

/-- DEC (R257). -/
def decOp {n : Nat} (f : Flags) (a : BitVec n) : BitVec n × Flags := (subResult a 1 false, decFlags f a)

/-- NEG (R262). -/
def negOp {n : Nat} (f : Flags) (a : BitVec n) : BitVec n × Flags := (subResult 0 a false, subFlags f 0 a false)

/-- INC r/m (R249). -/
def execIncRm (w : Width) (rm : Rm) (s : State) : Host.Outcome State Fault Refusal := perform (unaryRm w rm incOp) s

/-- INC reg (R250). -/
def execIncReg (r : Reg) (s : State) : Host.Outcome State Fault Refusal := perform (unaryRm .word (.reg r) incOp) s

/-- DEC r/m (R257). -/
def execDecRm (w : Width) (rm : Rm) (s : State) : Host.Outcome State Fault Refusal := perform (unaryRm w rm decOp) s

/-- DEC reg (R258). -/
def execDecReg (r : Reg) (s : State) : Host.Outcome State Fault Refusal := perform (unaryRm .word (.reg r) decOp) s

/-- NEG r/m (R262). -/
def execNegRm (w : Width) (rm : Rm) (s : State) : Host.Outcome State Fault Refusal := perform (unaryRm w rm negOp) s

/-! SUB, SBB, CMP. -/

/-- SUB r/m and reg (R251). -/
def execSubRmReg (w : Width) (d : Dir) (rm : Rm) (r : Reg) (s : State) : Host.Outcome State Fault Refusal :=
  perform (aluRmReg w d rm r 0 subOp) s

/-- SUB r/m, imm (R252). -/
def execSubRmImm (rm : Rm) (i : AluImm) (s : State) : Host.Outcome State Fault Refusal :=
  perform (aluToRm (aluWidth i) rm (fun _ => aluValue i) 0 subOp) s

/-- SUB acc, imm (R253). -/
def execSubAccImm (i : Imm) (s : State) : Host.Outcome State Fault Refusal :=
  perform (aluToAcc (immWidth i) (immValue i) 0 subOp) s

/-- SBB r/m and reg (R254). -/
def execSbbRmReg (w : Width) (d : Dir) (rm : Rm) (r : Reg) (s : State) : Host.Outcome State Fault Refusal :=
  perform (aluRmReg w d rm r 0 sbbOp) s

/-- SBB r/m, imm (R255). -/
def execSbbRmImm (rm : Rm) (i : AluImm) (s : State) : Host.Outcome State Fault Refusal :=
  perform (aluToRm (aluWidth i) rm (fun _ => aluValue i) 0 sbbOp) s

/-- SBB acc, imm (R256). -/
def execSbbAccImm (i : Imm) (s : State) : Host.Outcome State Fault Refusal :=
  perform (aluToAcc (immWidth i) (immValue i) 0 sbbOp) s

/-- The minuend of CMP r/m and reg is the operand `d` names as destination (R259). -/
def compareRmReg (w : Width) (d : Dir) (rm : Rm) (r : Reg) : M Unit :=
  match d with
  | .toRm => aluTest w rm 0 subOp (fun s => s.rmValue rm w) (fun s => s.getReg w r)
  | .toReg => aluTest w rm 0 subOp (fun s => s.getReg w r) (fun s => s.rmValue rm w)

/-- CMP r/m and reg (R259). -/
def execCmpRmReg (w : Width) (d : Dir) (rm : Rm) (r : Reg) (s : State) : Host.Outcome State Fault Refusal :=
  perform (compareRmReg w d rm r) s

/-- CMP r/m, imm (R260). -/
def execCmpRmImm (rm : Rm) (i : AluImm) (s : State) : Host.Outcome State Fault Refusal :=
  perform (aluTest (aluWidth i) rm 0 subOp (fun s => s.rmValue rm (aluWidth i)) (fun _ => aluValue i)) s

/-- CMP acc, imm (R261). -/
def execCmpAccImm (i : Imm) (s : State) : Host.Outcome State Fault Refusal :=
  perform (aluTest (immWidth i) (.reg 0) 0 subOp (fun s => s.acc (immWidth i)) (fun _ => immValue i)) s

/-! Decimal and ASCII adjust. -/

/-- Whether the first adjustment is made: the low digit is above 9 or AF is set (R263 to R266). -/
def State.adjusts (s : State) : Bool := decide (9 < (s.reg8 AL).toNat % 16) || s.flags.af

/-- AL, AH where `high` says so, and the flags at the free values numbered from `n` (93_implementation_defined.md U11).
Log entry 19. -/
def State.freeAdjust (s : State) (high : Bool) (n : Nat) : State :=
  let ah := if high then Config.freeByte (n + 7) else highByte (s.reg AX)
  { s.setReg AX (concatBytes ah (Config.freeByte (n + 6))) with flags := s.flags.allFree n }

/-- The end of AAA and AAS on a defined input: `al` and `ah` are the adjusted bytes (R263, R265). -/
def State.ascii (s : State) (al ah : Byte) (n : Nat) : State :=
  let f := { s.flags.allFree n with af := s.adjusts, cf := s.adjusts }
  if s.adjusts then { s.setReg AX (concatBytes ah (al &&& 0x0F)) with flags := f }
  else { s.setReg8 AL (s.reg8 AL &&& 0x0F) with flags := f }

/-- AAA (R263). -/
def execAaa (s : State) : Host.Outcome State Fault Refusal :=
  perform (do
    let n ← draw 8
    update fun s =>
      if s.adjusts && 0xF9 < (s.reg8 AL).toNat then s.freeAdjust true n
      else s.ascii (s.reg8 AL + 6) (s.reg8 AH + 1) n) s

/-- AAS (R265). -/
def execAas (s : State) : Host.Outcome State Fault Refusal :=
  perform (do
    let n ← draw 8
    update fun s =>
      if s.adjusts && (s.reg8 AL).toNat < 6 then s.freeAdjust true n
      else s.ascii (s.reg8 AL - 6) (s.reg8 AH - 1) n) s

/-- Whether the second adjustment of DAA and DAS is made, by AL and CF before the instruction (R264, R266). -/
def State.adjustsHigh (s : State) : Bool := decide (0x99 < (s.reg8 AL).toNat) || s.flags.cf

/-- The end of DAA and DAS: AL and the flags (R264, R266); OF takes the free value `n`. -/
def State.decimal (s : State) (al : Byte) (n : Nat) : State :=
  let f := s.flags.ofResult al
  { s.setReg8 AL al with
    flags := { f with af := s.adjusts, cf := s.adjustsHigh, ovf := Config.freeBit n } }

/-- DAA on a defined input (R264). -/
def State.daa (s : State) (n : Nat) : State :=
  let low : Byte := if s.adjusts then s.reg8 AL + 6 else s.reg8 AL
  s.decimal (if s.adjustsHigh then low + 0x60 else low) n

/-- DAA (R264). -/
def execDaa (s : State) : Host.Outcome State Fault Refusal :=
  perform (do
    let n ← draw 8
    update fun s => if s.adjusts && 0xFA ≤ (s.reg8 AL).toNat then s.freeAdjust false n else s.daa n) s

/-- DAS on a defined input (R266). -/
def State.das (s : State) (n : Nat) : State :=
  let low : Byte := if s.adjusts then s.reg8 AL - 6 else s.reg8 AL
  s.decimal (if s.adjustsHigh then low - 0x60 else low) n

/-- DAS (R266). -/
def execDas (s : State) : Host.Outcome State Fault Refusal :=
  perform (do
    let n ← draw 8
    update fun s => if s.adjusts && (s.reg8 AL).toNat < 6 then s.freeAdjust false n else s.das n) s

/-- AAM (R272). -/
def execAam (s : State) : Host.Outcome State Fault Refusal :=
  perform (do
    let n ← draw 6
    update fun s =>
      let al := s.reg8 AL
      { s.setReg AX (concatBytes (al / 10) (al % 10)) with flags := (s.flags.allFree n).ofResult (al % 10) }) s

/-- AAD (R273). -/
def execAad (s : State) : Host.Outcome State Fault Refusal :=
  perform (do
    let n ← draw 6
    update fun s =>
      let al := s.reg8 AH * 10 + s.reg8 AL
      { s.setReg AX (zeroExtend16 al) with flags := (s.flags.allFree n).ofResult al }) s

/-! Multiply and divide. -/

/-- The high and the low half of a 32-bit value (R267). -/
abbrev highWord (v : BitVec 32) : Word := v.extractLsb' 16 16
/-- The low half of a 32-bit value (R267). -/
abbrev lowWord (v : BitVec 32) : Word := v.extractLsb' 0 16

/-- A 32-bit value into DX and AX (R267). -/
def State.setDxAx (s : State) (v : BitVec 32) : State := (s.setReg AX (lowWord v)).setReg DX (highWord v)

/-- DX:AX (R270). -/
def State.dxAx (s : State) : BitVec 32 := s.reg DX ++ s.reg AX

/-- The product of MUL into AX or DX:AX (R267). -/
def State.mul (s : State) (w : Width) (v : BitVec w.bits) (n : Nat) : State :=
  match w with
  | .byte =>
    let p := zeroExtend16 (s.reg8 AL) * zeroExtend16 v
    { s.setReg AX p with flags := mulFlags s.flags (highByte p != 0) n }
  | .word =>
    let p : BitVec 32 := (s.reg AX).setWidth 32 * BitVec.setWidth 32 v
    { s.setDxAx p with flags := mulFlags s.flags (highWord p != 0) n }

/-- MUL r/m (R267). -/
def execMulRm (w : Width) (rm : Rm) (s : State) : Host.Outcome State Fault Refusal :=
  perform (do
    let v ← readRm rm w
    let n ← draw 6
    update fun s => s.mul w v n) s

/-- The product of IMUL into AX or DX:AX (R268). -/
def State.imul (s : State) (w : Width) (v : BitVec w.bits) (n : Nat) : State :=
  match w with
  | .byte =>
    let p := signExtend16 (s.reg8 AL) * signExtend16 v
    { s.setReg AX p with flags := mulFlags s.flags (p != signExtend16 (lowByte p)) n }
  | .word =>
    let p : BitVec 32 := (s.reg AX).signExtend 32 * BitVec.signExtend 32 v
    { s.setDxAx p with flags := mulFlags s.flags (p != (lowWord p).signExtend 32) n }

/-- IMUL r/m (R268). -/
def execImulRm (w : Width) (rm : Rm) (s : State) : Host.Outcome State Fault Refusal :=
  perform (do
    let v ← readRm rm w
    let n ← draw 6
    update fun s => s.imul w v n) s

/-- IMUL reg, r/m, imm (R269). -/
def execImulRegRmImm (r : Reg) (rm : Rm) (i : SxImm) (s : State) : Host.Outcome State Fault Refusal :=
  perform (do
    let v ← readRm rm .word
    let n ← draw 6
    update fun s =>
      let p : BitVec 32 := BitVec.signExtend 32 v * (sxValue i).signExtend 32
      { s.setReg r (lowWord p) with flags := mulFlags s.flags (p != (lowWord p).signExtend 32) n }) s

/-- Vector 0 (60_exceptions.md R510). -/
abbrev divideError : Stop := .exc 0 none

/-- Whether DIV traps: a zero divisor or a quotient too large (R270). -/
def State.divTraps (s : State) (w : Width) (v : BitVec w.bits) : Bool :=
  match w with
  | .byte => v.toNat == 0 || decide (0xFF < (s.reg AX).toNat / v.toNat)
  | .word => v.toNat == 0 || decide (0xFFFF < s.dxAx.toNat / v.toNat)

/-- Quotient and remainder of DIV (R270). -/
def State.div (s : State) (w : Width) (v : BitVec w.bits) : State :=
  match w with
  | .byte =>
    let x := (s.reg AX).toNat
    s.setReg AX (concatBytes (BitVec.ofNat 8 (x % v.toNat)) (BitVec.ofNat 8 (x / v.toNat)))
  | .word =>
    let x := s.dxAx.toNat
    (s.setReg AX (BitVec.ofNat 16 (x / v.toNat))).setReg DX (BitVec.ofNat 16 (x % v.toNat))

/-- DIV r/m (R270). -/
def execDivRm (w : Width) (rm : Rm) (s : State) : Host.Outcome State Fault Refusal :=
  perform (do
    let v ← readRm rm w
    require (fun s => !s.divTraps w v) divideError
    let n ← draw 6
    update fun s => { s.div w v with flags := s.flags.allFree n }) s

/-- The dividend of IDIV (R271). -/
def State.dividend (s : State) (w : Width) : Int :=
  match w with
  | .byte => (s.reg AX).toInt
  | .word => s.dxAx.toInt

/-- The quotient of IDIV, truncated toward zero (R271). -/
def State.quotient (s : State) (w : Width) (v : BitVec w.bits) : Int := (s.dividend w).tdiv v.toInt

/-- Whether IDIV traps for certain: a zero divisor or a quotient outside the signed range (R271). -/
def State.idivTraps (s : State) (w : Width) (v : BitVec w.bits) : Bool :=
  v.toInt == 0 || decide ((2 : Int) ^ (w.bits - 1) ≤ s.quotient w v) ||
    decide (s.quotient w v < -((2 : Int) ^ (w.bits - 1)))

/-- Whether the quotient is the most negative number, which may be stored or trap (93_implementation_defined.md U10).
Log entry 18. -/
def State.idivOpen (s : State) (w : Width) (v : BitVec w.bits) : Bool :=
  s.quotient w v == -((2 : Int) ^ (w.bits - 1))

/-- Quotient and remainder of IDIV; the remainder has the sign of the dividend (R271). -/
def State.idiv (s : State) (w : Width) (v : BitVec w.bits) : State :=
  let q := s.quotient w v
  let r := (s.dividend w).tmod v.toInt
  match w with
  | .byte => s.setReg AX (concatBytes (BitVec.ofInt 8 r) (BitVec.ofInt 8 q))
  | .word => (s.setReg AX (BitVec.ofInt 16 q)).setReg DX (BitVec.ofInt 16 r)

/-- IDIV r/m (R271). -/
def execIdivRm (w : Width) (rm : Rm) (s : State) : Host.Outcome State Fault Refusal :=
  perform (do
    let v ← readRm rm w
    require (fun s => !s.idivTraps w v) divideError
    let n ← draw 7
    require (fun s => !(s.idivOpen w v && Config.freeBit (n + 6))) divideError
    update fun s => { s.idiv w v with flags := s.flags.allFree n }) s

/-! Conversions. -/

/-- CBW (R274). -/
def execCbw (s : State) : Host.Outcome State Fault Refusal :=
  perform (update fun s => s.setReg AX (signExtend16 (s.reg8 AL))) s

/-- CWD (R275). -/
def execCwd (s : State) : Host.Outcome State Fault Refusal :=
  perform (update fun s => s.setReg DX (if (s.reg AX).msb then 0xFFFF else 0x0000)) s

end Sys2Proof.Machine
end

