-- ==== Sys2Proof/Machine/Control.lean ====
section
/-! DEFINITION. The control transfer instructions, ENTER, LEAVE, BOUND, INT and IRET (44_control_transfer.md). -/

namespace Sys2Proof.Machine

/-! JMP and CALL. -/

/-- JMP short (R331). -/
def execJmpShort (disp : Byte) (s : State) : Host.Outcome State Fault Refusal := perform (jumpTo (s.shortTarget disp)) s
/-- JMP near (R332). -/
def execJmpNear (disp : Word) (s : State) : Host.Outcome State Fault Refusal := perform (jumpTo (s.ip + disp)) s
/-- JMP r/m (R333). -/
def execJmpRm (rm : Rm) (s : State) : Host.Outcome State Fault Refusal := perform (do jumpTo (← readRm rm .word)) s
/-- JMP far direct (R334, 45_protected_transfer.md R382). -/
def execJmpFar (off sel : Word) (s : State) : Host.Outcome State Fault Refusal := perform (jumpFar off sel) s
/-- JMP far indirect (R335, 45_protected_transfer.md R382). -/
def execJmpFarMem (m : MemOp) (s : State) : Host.Outcome State Fault Refusal :=
  perform (do
    let p ← readPointer m
    jumpFar p.1 p.2) s
/-- CALL near (R336). -/
def execCallNear (disp : Word) (s : State) : Host.Outcome State Fault Refusal := perform (callTo (s.ip + disp)) s
/-- CALL r/m (R337). -/
def execCallRm (rm : Rm) (s : State) : Host.Outcome State Fault Refusal := perform (do callTo (← readRm rm .word)) s
/-- CALL far direct (R338, 45_protected_transfer.md R383). -/
def execCallFar (off sel : Word) (s : State) : Host.Outcome State Fault Refusal := perform (callFar off sel) s
/-- CALL far indirect (R339, 45_protected_transfer.md R383). -/
def execCallFarMem (m : MemOp) (s : State) : Host.Outcome State Fault Refusal :=
  perform (do
    let p ← readPointer m
    callFar p.1 p.2) s

/-! Conditional jumps. -/

/-- JO: OF = 1 (R341). -/
def execJo (disp : Byte) (s : State) : Host.Outcome State Fault Refusal := perform (jumpIf (fun s => s.flags.ovf) disp) s
/-- JNO: OF = 0 (R342). -/
def execJno (disp : Byte) (s : State) : Host.Outcome State Fault Refusal :=
  perform (jumpIf (fun s => !s.flags.ovf) disp) s
/-- JB: CF = 1 (R343). -/
def execJb (disp : Byte) (s : State) : Host.Outcome State Fault Refusal := perform (jumpIf (fun s => s.flags.cf) disp) s
/-- JNB: CF = 0 (R344). -/
def execJnb (disp : Byte) (s : State) : Host.Outcome State Fault Refusal :=
  perform (jumpIf (fun s => !s.flags.cf) disp) s
/-- JE: ZF = 1 (R345). -/
def execJe (disp : Byte) (s : State) : Host.Outcome State Fault Refusal := perform (jumpIf (fun s => s.flags.zf) disp) s
/-- JNE: ZF = 0 (R346). -/
def execJne (disp : Byte) (s : State) : Host.Outcome State Fault Refusal :=
  perform (jumpIf (fun s => !s.flags.zf) disp) s
/-- JBE: CF = 1 or ZF = 1 (R347). -/
def execJbe (disp : Byte) (s : State) : Host.Outcome State Fault Refusal :=
  perform (jumpIf (fun s => s.flags.cf || s.flags.zf) disp) s
/-- JNBE: CF = 0 and ZF = 0 (R348). -/
def execJnbe (disp : Byte) (s : State) : Host.Outcome State Fault Refusal :=
  perform (jumpIf (fun s => !s.flags.cf && !s.flags.zf) disp) s
/-- JS: SF = 1 (R349). -/
def execJs (disp : Byte) (s : State) : Host.Outcome State Fault Refusal := perform (jumpIf (fun s => s.flags.sf) disp) s
/-- JNS: SF = 0 (R350). -/
def execJns (disp : Byte) (s : State) : Host.Outcome State Fault Refusal :=
  perform (jumpIf (fun s => !s.flags.sf) disp) s
/-- JP: PF = 1 (R351). -/
def execJp (disp : Byte) (s : State) : Host.Outcome State Fault Refusal := perform (jumpIf (fun s => s.flags.pf) disp) s
/-- JNP: PF = 0 (R352). -/
def execJnp (disp : Byte) (s : State) : Host.Outcome State Fault Refusal :=
  perform (jumpIf (fun s => !s.flags.pf) disp) s
/-- JL: SF other than OF (R353). -/
def execJl (disp : Byte) (s : State) : Host.Outcome State Fault Refusal :=
  perform (jumpIf (fun s => s.flags.sf != s.flags.ovf) disp) s
/-- JNL: SF = OF (R354). -/
def execJnl (disp : Byte) (s : State) : Host.Outcome State Fault Refusal :=
  perform (jumpIf (fun s => s.flags.sf == s.flags.ovf) disp) s
/-- JLE: ZF = 1 or SF other than OF (R355). -/
def execJle (disp : Byte) (s : State) : Host.Outcome State Fault Refusal :=
  perform (jumpIf (fun s => s.flags.zf || s.flags.sf != s.flags.ovf) disp) s
/-- JNLE: ZF = 0 and SF = OF (R356). -/
def execJnle (disp : Byte) (s : State) : Host.Outcome State Fault Refusal :=
  perform (jumpIf (fun s => !s.flags.zf && s.flags.sf == s.flags.ovf) disp) s

/-! Loops. CX is written only when the jump raises no exception. -/

/-- CX less one, without flags, then a jump if CX is not 0 and `cond` holds (R357 to R359). -/
def loopIf (cond : State → Bool) (disp : Byte) : M Unit := do
  jumpIf (fun s => s.reg CX - 1 != 0 && cond s) disp
  update fun s => s.setReg CX (s.reg CX - 1)

/-- LOOP (R357). -/
def execLoop (disp : Byte) (s : State) : Host.Outcome State Fault Refusal := perform (loopIf (fun _ => true) disp) s
/-- LOOPZ (R358). -/
def execLoopz (disp : Byte) (s : State) : Host.Outcome State Fault Refusal :=
  perform (loopIf (fun s => s.flags.zf) disp) s
/-- LOOPNZ (R359). -/
def execLoopnz (disp : Byte) (s : State) : Host.Outcome State Fault Refusal :=
  perform (loopIf (fun s => !s.flags.zf) disp) s
/-- JCXZ (R360). -/
def execJcxz (disp : Byte) (s : State) : Host.Outcome State Fault Refusal :=
  perform (jumpIf (fun s => s.reg CX == 0) disp) s

/-! RET. -/

/-- RET within the segment (R361). -/
def execRetNear (s : State) : Host.Outcome State Fault Refusal := perform (returnNear 0) s
/-- RET within the segment adding an immediate to SP (R362). -/
def execRetNearImm (n : Word) (s : State) : Host.Outcome State Fault Refusal := perform (returnNear n) s
/-- RET intersegment (R363, 45_protected_transfer.md R396). -/
def execRetFar (s : State) : Host.Outcome State Fault Refusal := perform (returnFar 0) s
/-- RET intersegment adding an immediate to SP (R364, 45_protected_transfer.md R396). -/
def execRetFarImm (n : Word) (s : State) : Host.Outcome State Fault Refusal := perform (returnFar n) s

/-! ENTER, LEAVE, BOUND. -/

/-- Push a word at a stack offset without moving SP. -/
def pushAt (t v : Word) : M Unit := do
  check fun s => s.pushStop t
  update fun s => s.store .ss t .word v

/-- The copied frame pointers of ENTER: `count` words from below `bp` to below `sp`; the new top of the stack (R365). -/
def enterLevels (count : Nat) (bp sp : Word) : M Word :=
  match count with
  | 0 => pure sp
  | k + 1 => do
    let v ← segRead .ss (bp - 2) .word
    pushAt (sp - 2) v
    enterLevels k (bp - 2) (sp - 2)

/-- The pushes of ENTER after that of BP; the new top of the stack (R365). -/
def enterFrames (level : Nat) (bp frame : Word) : M Word :=
  match level with
  | 0 => pure frame
  | k + 1 => do
    let sp ← enterLevels k bp frame
    pushAt (sp - 2) frame
    pure (sp - 2)

/-- The pushes of ENTER; the new top of the stack (R365). -/
def enterPushes (level : Nat) (bp frame : Word) : M Word := do
  pushAt frame bp
  enterFrames level bp frame

/-- The pushes of ENTER, `count` of them, none of which is made where an access of them stops: the tests look at nothing
the pushes write, and all of them come before the first write (20_memory.md R113, 92_eei_decisions.md D21). A push that
wraps is shutdown (60_exceptions.md R545). Log entry 42. -/
def allOrNone (count : Nat) (m : M Word) : M Word := fun s =>
  match m s with
  | .ok v t => .ok v t
  | .error .shutdown _ => .error .shutdown (s.wrapStack count)
  | .error e _ => .error e s

/-- ENTER: SP and BP are written last, so that an exception leaves them as they were (R365). -/
def execEnter (size : Word) (level : Byte) (s : State) : Host.Outcome State Fault Refusal :=
  perform (do
    let frame := s.reg SP - 2
    let sp ← allOrNone (level.toNat % 32 + 1) (enterPushes (level.toNat % 32) (s.reg BP) frame)
    update fun s => (s.setReg BP frame).setReg SP (sp - size)) s

/-- LEAVE (R366). -/
def execLeave (s : State) : Host.Outcome State Fault Refusal :=
  perform (do
    let v ← segRead .ss (s.reg BP) .word
    update fun s => (s.setReg SP (s.reg BP + 2)).setReg BP v) s

/-- BOUND: vector 5 outside the bounds (R367). -/
def execBound (r : Reg) (m : MemOp) (s : State) : Host.Outcome State Fault Refusal :=
  perform (do
    let p ← readPointer m
    require (fun s => p.1.sle (s.reg r) && (s.reg r).sle p.2) (.exc 5 none)) s

/-! Interrupts. -/

/-- A software interrupt: entry with return address `next_ip` (R368). -/
def softwareInterrupt (v : Byte) : M Unit := do
  enter v (← look fun s => s.ip) true none

/-- INT n (R368). -/
def execIntN (v : Byte) (s : State) : Host.Outcome State Fault Refusal := perform (softwareInterrupt v) s
/-- INT 3 (R369). -/
def execInt3 (s : State) : Host.Outcome State Fault Refusal := perform (softwareInterrupt 3) s
/-- INTO (R370). -/
def execInto (s : State) : Host.Outcome State Fault Refusal :=
  perform (if s.flags.ovf then softwareInterrupt 4 else pure ()) s
/-- IRET (R371, 45_protected_transfer.md R403, R404). -/
def execIret (s : State) : Host.Outcome State Fault Refusal := perform returnFromInterrupt s

end Sys2Proof.Machine
end

