-- ==== Sys2Proof/Machine/DataTransfer.lean ====
section
/-! DEFINITION. The data transfer instructions (40_data_transfer.md). -/

namespace Sys2Proof.Machine

/-- MOV r/m, reg (R201). -/
def execMovRmReg (w : Width) (rm : Rm) (r : Reg) (s : State) : Host.Outcome State Fault Refusal :=
  perform (do writeRm rm w (← look fun s => s.getReg w r)) s

/-- MOV reg, r/m (R202). -/
def execMovRegRm (w : Width) (r : Reg) (rm : Rm) (s : State) : Host.Outcome State Fault Refusal :=
  perform (do
    let v ← readRm rm w
    update fun s => s.putReg w r v) s

/-- MOV r/m, imm (R203). -/
def execMovRmImm (rm : Rm) (i : Imm) (s : State) : Host.Outcome State Fault Refusal :=
  perform (writeRm rm (immWidth i) (immValue i)) s

/-- MOV reg, imm (R204). -/
def execMovRegImm (r : Reg) (i : Imm) (s : State) : Host.Outcome State Fault Refusal :=
  perform (update fun s => s.putReg (immWidth i) r (immValue i)) s

/-- MOV AL/AX, [off] (R205). -/
def execMovAccMem (w : Width) (off : Word) (s : State) : Host.Outcome State Fault Refusal :=
  perform (do
    let v ← segRead (s.overrideOr .ds) off w
    update fun s => s.setAcc w v) s

/-- MOV [off], AL/AX (R206). -/
def execMovMemAcc (w : Width) (off : Word) (s : State) : Host.Outcome State Fault Refusal :=
  perform (segWrite (s.overrideOr .ds) off w (s.acc w)) s

/-- The hold-off after a load of SS, where the implementation has it (R231, log entry 16). -/
def State.holdOff (s : State) (sr : SReg) : State :=
  { s with inhibitAll := s.inhibitAll || (sr == .ss && Config.ssLoadInhibitsInterrupts) }

/-- MOV sreg, r/m (R207); CS is no destination (30_encoding.md R176). -/
def execMovSregRm (sr : SReg) (rm : Rm) (s : State) : Host.Outcome State Fault Refusal :=
  if sr = .cs then takeException 6 none s
  else
    perform (do
      let v ← readRm rm .word
      loadSeg sr v
      update fun s => s.holdOff sr) s

/-- MOV r/m, sreg (R208). -/
def execMovRmSreg (rm : Rm) (sr : SReg) (s : State) : Host.Outcome State Fault Refusal :=
  perform (do writeRm rm .word (← look fun s => (s.seg sr).sel)) s

/-! The stack. -/

/-- A free word at a stack offset, its second byte at the next offset modulo 2^16. -/
def State.freeStackWord (s : State) (t : Word) (n : Nat) : State :=
  (s.store .ss t .byte (lowByte (Config.freeWord n))).store .ss (t + 1) .byte (highByte (Config.freeWord n))

/-- Free words at `count` consecutive stack offsets downwards. -/
def State.freeStackWords (s : State) (t : Word) (n count : Nat) : State :=
  match count with
  | 0 => s
  | k + 1 => (s.freeStackWord t n).freeStackWords (t - 2) (n + 1) k

/-- A PUSH of an operand, and PUSHF: the real-mode wrap is shutdown with SP and the word taking free values
(20_memory.md R86, 93_implementation_defined.md U8). Log entry 20. -/
def pushOperand (v : Word) : M Unit := do
  let wraps ← look fun s => !s.msw.pe && s.reg SP == 1
  if wraps then do
    let n ← draw 2
    update fun s => (s.freeStackWord 0xFFFF n).setReg SP (Config.freeWord (n + 1))
    stop .shutdown
  else push16 v

/-- The test of a POP of an operand: in real mode a word at offset 0xFFFF is exception 13 with SP taking a free value
(20_memory.md R87, 93_implementation_defined.md U8). Log entry 20. -/
def checkPop : M Unit := do
  let wraps ← look fun s => !s.msw.pe && s.reg SP == 0xFFFF
  if wraps then do
    let n ← draw 1
    update fun s => s.setReg SP (Config.freeWord n)
    stop (.exc 13 none)
  else check fun s => s.accessStop .ss (s.reg SP) .word false

/-- The word at the top of the stack. -/
def State.top (s : State) : Word := s.load .ss (s.reg SP) .word

/-- PUSH r/m (R209). -/
def execPushRm (rm : Rm) (s : State) : Host.Outcome State Fault Refusal :=
  perform (do pushOperand (← readRm rm .word)) s

/-- PUSH reg (R210): PUSH SP pushes SP as it was. -/
def execPushReg (r : Reg) (s : State) : Host.Outcome State Fault Refusal :=
  perform (do pushOperand (← look fun s => s.reg r)) s

/-- PUSH sreg (R211). -/
def execPushSreg (sr : SReg) (s : State) : Host.Outcome State Fault Refusal :=
  perform (do pushOperand (← look fun s => (s.seg sr).sel)) s

/-- PUSH imm (R212). -/
def execPushImm (i : SxImm) (s : State) : Host.Outcome State Fault Refusal :=
  perform (pushOperand (sxValue i)) s

/-- The eight words of PUSHA, the first pushed first (R213). -/
def State.allRegs (s : State) : List Word :=
  [s.reg AX, s.reg CX, s.reg DX, s.reg BX, s.reg SP, s.reg BP, s.reg SI, s.reg DI]

/-- PUSHA in real mode: a word that would cross offset 0xFFFF is shutdown; SP, that word and the later ones take free
values (R213, 93_implementation_defined.md U8). Log entry 20. -/
def pushAllReal : M Unit := do
  let sp ← look fun s => s.reg SP
  let k := sp.toNat / 2
  if sp.toNat % 2 = 1 ∧ k < 8 then do
    let n ← draw 9
    update fun s =>
      ((s.writeFrame s.ss sp (s.allRegs.take k)).freeStackWords 0xFFFF n (8 - k)).setReg SP (Config.freeWord (n + 8))
    stop .shutdown
  else update fun s => (s.writeFrame s.ss sp s.allRegs).setReg SP (sp - 16)

/-- PUSHA in protected mode: all sixteen bytes are tested first; a frame that wraps is pushed up to the wrap and then
raises StackFault(0) (R213, 60_exceptions.md R527). Log entry 22. -/
def pushAllProtected : M Unit := do
  let sp ← look fun s => s.reg SP
  let k := sp.toNat / 2
  if 1 ≤ sp.toNat ∧ sp.toNat < 16 then do
    check fun s => frameStop s s.ss sp k
    update fun s => (s.writeFrame s.ss sp (s.allRegs.take k)).setReg SP (sp - BitVec.ofNat 16 (2 * k))
    stop (stackFault 0)
  else do
    check fun s => frameStop s s.ss sp 8
    update fun s => (s.writeFrame s.ss sp s.allRegs).setReg SP (sp - 16)

/-- PUSHA (R213). -/
def execPusha (s : State) : Host.Outcome State Fault Refusal :=
  perform (if s.msw.pe then pushAllProtected else pushAllReal) s

/-- POP r/m (R214): the destination is tested before SP changes. -/
def execPopRm (rm : Rm) (s : State) : Host.Outcome State Fault Refusal :=
  perform (do
    checkPop
    check fun s => s.rmStop rm .word true
    let v ← look State.top
    update fun s => (s.setReg SP (s.reg SP + 2)).setRm rm .word v) s

/-- POP reg (R215): the popped value is the final SP of POP SP. -/
def execPopReg (r : Reg) (s : State) : Host.Outcome State Fault Refusal :=
  perform (do
    checkPop
    let v ← look State.top
    update fun s => (s.setReg SP (s.reg SP + 2)).setReg r v) s

/-- POP sreg (R216): SP is advanced only if the load succeeds; there is no POP CS (30_encoding.md R176). -/
def execPopSreg (sr : SReg) (s : State) : Host.Outcome State Fault Refusal :=
  if sr = .cs then takeException 6 none s
  else
    perform (do
      checkPop
      let v ← look State.top
      loadSeg sr v
      update fun s => (s.setReg SP (s.reg SP + 2)).holdOff sr) s

/-- The first `count` slots of the frame of POPA: DI, SI, BP, the discarded SP, BX, DX, CX, AX (R217). -/
def State.popSlots (s : State) (sp : Word) (count : Nat) : State :=
  match count with
  | 0 => s
  | k + 1 =>
    let t := s.popSlots sp k
    if k = 3 then t else t.setReg (BitVec.ofNat 3 (7 - k)) (s.load .ss (sp + BitVec.ofNat 16 (2 * k)) .word)

/-- Free values in the registers numbered below `count`, SP excepted: those of the last `count` slots of POPA. -/
def State.freeSlots (s : State) (n count : Nat) : State :=
  match count with
  | 0 => s
  | k + 1 =>
    let t := s.freeSlots n k
    if k = 4 then t else t.setReg (BitVec.ofNat 3 k) (Config.freeWord (n + k))

/-- Whether the first `count` words of a frame at `sp` may be read. -/
def State.popFrameStop (s : State) (sp : Word) (count : Nat) : Option Stop :=
  match count with
  | 0 => none
  | k + 1 =>
    match s.popFrameStop sp k with
    | some e => some e
    | none => s.accessStop .ss (sp + BitVec.ofNat 16 (2 * k)) .word false

/-- POPA in real mode: a word at offset 0xFFFF is exception 13; SP and the registers not yet written take free values
(R217, 93_implementation_defined.md U8). Log entry 20. -/
def popAllReal : M Unit := do
  let sp ← look fun s => s.reg SP
  let k := (0xFFFF - sp.toNat) / 2
  if sp.toNat % 2 = 1 ∧ k < 8 ∧ k ≠ 3 then do
    let n ← draw 9
    update fun s => ((s.popSlots sp k).freeSlots n (8 - k)).setReg SP (Config.freeWord (n + 8))
    stop (.exc 13 none)
  else update fun s => (s.popSlots sp 8).setReg SP (sp + 16)

/-- POPA in protected mode: all sixteen bytes are tested first; a frame that wraps is popped up to the wrap and then
raises StackFault(0) (R217, 60_exceptions.md R527). Log entry 22. -/
def popAllProtected : M Unit := do
  let sp ← look fun s => s.reg SP
  let k := (0xFFFF - sp.toNat) / 2
  if 0xFFF0 < sp.toNat then do
    check fun s => s.popFrameStop sp k
    update fun s => (s.popSlots sp k).setReg SP (sp + BitVec.ofNat 16 (2 * k))
    stop (stackFault 0)
  else do
    check fun s => s.popFrameStop sp 8
    update fun s => (s.popSlots sp 8).setReg SP (sp + 16)

/-- POPA (R217). -/
def execPopa (s : State) : Host.Outcome State Fault Refusal :=
  perform (if s.msw.pe then popAllProtected else popAllReal) s

/-! Exchange and translate. -/

/-- XCHG r/m, reg (R218): the operand must be writable. -/
def execXchgRmReg (w : Width) (rm : Rm) (r : Reg) (s : State) : Host.Outcome State Fault Refusal :=
  perform (do
    check fun s => s.rmStop rm w true
    update fun s => (s.setRm rm w (s.getReg w r)).putReg w r (s.rmValue rm w)) s

/-- XCHG AX, reg (R219). -/
def execXchgAx (r : Reg) (s : State) : Host.Outcome State Fault Refusal :=
  perform (update fun s => (s.setReg AX (s.reg r)).setReg r (s.reg AX)) s

/-- NOP, the byte 0x90 (R219, 30_encoding.md R169). -/
def execNop (s : State) : Host.Outcome State Fault Refusal := perform (pure ()) s

/-- The offset XLAT reads (R224). -/
def State.xlatOffset (s : State) : Word := s.reg BX + zeroExtend16 (s.reg8 AL)

/-- XLAT (R224). -/
def execXlat (s : State) : Host.Outcome State Fault Refusal :=
  perform (do
    let v ← segRead (s.overrideOr .ds) s.xlatOffset .byte
    update fun s => s.setReg8 AL v) s

/-! Input and output. -/

/-- IN from a port (R220). -/
def inputFrom (port : Word) (w : Width) : M Unit := do
  requireIopl
  let v ← ioRead port w
  update fun s => s.setAcc w v

/-- OUT to a port (R222). -/
def outputTo (port : Word) (w : Width) : M Unit := do
  requireIopl
  update fun s => s.ioWrite port w (s.acc w)

/-- IN acc, port (R220). -/
def execInPort (w : Width) (port : Byte) (s : State) : Host.Outcome State Fault Refusal :=
  perform (inputFrom (zeroExtend16 port) w) s

/-- IN acc, DX (R221). -/
def execInDx (w : Width) (s : State) : Host.Outcome State Fault Refusal := perform (inputFrom (s.reg DX) w) s

/-- OUT port, acc (R222). -/
def execOutPort (w : Width) (port : Byte) (s : State) : Host.Outcome State Fault Refusal :=
  perform (outputTo (zeroExtend16 port) w) s

/-- OUT DX, acc (R223). -/
def execOutDx (w : Width) (s : State) : Host.Outcome State Fault Refusal := perform (outputTo (s.reg DX) w) s

/-! Addresses and pointers. -/

/-- LEA (R225). -/
def execLea (r : Reg) (m : MemOp) (s : State) : Host.Outcome State Fault Refusal :=
  perform (update fun s => s.setReg r (s.ea m)) s

/-- A far pointer into a segment register and a general register, which is written only if the segment load succeeds
(R226). -/
def loadPointer (sr : SReg) (r : Reg) (m : MemOp) : M Unit := do
  let p ← readPointer m
  loadSeg sr p.2
  update fun s => s.setReg r p.1

/-- LDS (R226). -/
def execLds (r : Reg) (m : MemOp) (s : State) : Host.Outcome State Fault Refusal := perform (loadPointer .ds r m) s

/-- LES (R227). -/
def execLes (r : Reg) (m : MemOp) (s : State) : Host.Outcome State Fault Refusal := perform (loadPointer .es r m) s

/-! Flags. -/

/-- LAHF (R228). -/
def execLahf (s : State) : Host.Outcome State Fault Refusal :=
  perform (update fun s => s.setReg8 AH s.flags.lowImage) s

/-- SAHF (R229). -/
def execSahf (s : State) : Host.Outcome State Fault Refusal :=
  perform (update fun s => { s with flags := s.flags.loadLow (s.reg8 AH) }) s

/-- PUSHF (R230). DESIGN CHOICE: at SP = 1 in real mode, where the push is shutdown (20_memory.md R86), SP and the word
take free values as those of PUSH do; 93_implementation_defined.md U8 and U14 do not name PUSHF. Log entry 20. -/
def execPushf (s : State) : Host.Outcome State Fault Refusal :=
  perform (do pushOperand (← look fun s => s.flags.image)) s

/-- The flags POPF loads in either mode (R236). -/
def State.loadFlags (s : State) (v : Word) : Flags :=
  if s.msw.pe then s.flags.loadProtected s.cpl v else Flags.loadReal v

/-- POPF (R236). -/
def execPopf (s : State) : Host.Outcome State Fault Refusal :=
  perform (do
    let v ← pop16
    update fun s => { s with flags := s.loadFlags v }) s

end Sys2Proof.Machine
end

