-- ==== Sys2Proof/Machine/Logic.lean ====
section
/-! DEFINITION. The logic, shift and rotate instructions (42_logic.md). -/

namespace Sys2Proof.Machine

/-- AND, and TEST, which discards the result; AF takes a free value (R281, R282). -/
def andOp {n : Nat} : AluOp n := fun k f a b => (a &&& b, logicFlags f (a &&& b) (Config.freeBit k))

/-- OR (R281, R288). -/
def orOp {n : Nat} : AluOp n := fun k f a b => (a ||| b, logicFlags f (a ||| b) (Config.freeBit k))

/-- XOR (R281, R291). -/
def xorOp {n : Nat} : AluOp n := fun k f a b => (a ^^^ b, logicFlags f (a ^^^ b) (Config.freeBit k))

/-- AND r/m and reg (R282). -/
def execAndRmReg (w : Width) (d : Dir) (rm : Rm) (r : Reg) (s : State) : Host.Outcome State Fault Refusal :=
  perform (aluRmReg w d rm r 1 andOp) s

/-- AND r/m, imm (R283). -/
def execAndRmImm (rm : Rm) (i : AluImm) (s : State) : Host.Outcome State Fault Refusal :=
  perform (aluToRm (aluWidth i) rm (fun _ => aluValue i) 1 andOp) s

/-- AND acc, imm (R284). -/
def execAndAccImm (i : Imm) (s : State) : Host.Outcome State Fault Refusal :=
  perform (aluToAcc (immWidth i) (immValue i) 1 andOp) s

/-- TEST r/m, reg (R285). -/
def execTestRmReg (w : Width) (rm : Rm) (r : Reg) (s : State) : Host.Outcome State Fault Refusal :=
  perform (aluTest w rm 1 andOp (fun s => s.rmValue rm w) (fun s => s.getReg w r)) s

/-- TEST r/m, imm (R286). -/
def execTestRmImm (rm : Rm) (i : Imm) (s : State) : Host.Outcome State Fault Refusal :=
  perform (aluTest (immWidth i) rm 1 andOp (fun s => s.rmValue rm (immWidth i)) (fun _ => immValue i)) s

/-- TEST acc, imm (R287). -/
def execTestAccImm (i : Imm) (s : State) : Host.Outcome State Fault Refusal :=
  perform (aluTest (immWidth i) (.reg 0) 1 andOp (fun s => s.acc (immWidth i)) (fun _ => immValue i)) s

/-- OR r/m and reg (R288). -/
def execOrRmReg (w : Width) (d : Dir) (rm : Rm) (r : Reg) (s : State) : Host.Outcome State Fault Refusal :=
  perform (aluRmReg w d rm r 1 orOp) s

/-- OR r/m, imm (R289). -/
def execOrRmImm (rm : Rm) (i : AluImm) (s : State) : Host.Outcome State Fault Refusal :=
  perform (aluToRm (aluWidth i) rm (fun _ => aluValue i) 1 orOp) s

/-- OR acc, imm (R290). -/
def execOrAccImm (i : Imm) (s : State) : Host.Outcome State Fault Refusal :=
  perform (aluToAcc (immWidth i) (immValue i) 1 orOp) s

/-- XOR r/m and reg (R291). -/
def execXorRmReg (w : Width) (d : Dir) (rm : Rm) (r : Reg) (s : State) : Host.Outcome State Fault Refusal :=
  perform (aluRmReg w d rm r 1 xorOp) s

/-- XOR r/m, imm (R292). -/
def execXorRmImm (rm : Rm) (i : AluImm) (s : State) : Host.Outcome State Fault Refusal :=
  perform (aluToRm (aluWidth i) rm (fun _ => aluValue i) 1 xorOp) s

/-- XOR acc, imm (R293). -/
def execXorAccImm (i : Imm) (s : State) : Host.Outcome State Fault Refusal :=
  perform (aluToAcc (immWidth i) (immValue i) 1 xorOp) s

/-- NOT r/m: no flag is written (R294). -/
def execNotRm (w : Width) (rm : Rm) (s : State) : Host.Outcome State Fault Refusal :=
  perform (unaryRm w rm fun f a => (~~~a, f)) s

/-! Shifts and rotates. -/

/-- A shift or rotate of r/m by a count; with an effective count of 0 the operand must be writable and nothing changes
(R295). -/
def shiftRm (op : ShiftOp) (w : Width) (rm : Rm) (count : Byte) : M Unit := do
  check fun s => s.rmStop rm w true
  if shiftCount count = 0 then pure ()
  else do
    let n ← draw 2
    update fun s =>
      { s.setRm rm w (shiftResult op (s.rmValue rm w) count s.flags.cf) with
        flags := shiftFlags s.flags op (s.rmValue rm w) count n }

/-- ROL r/m, 1 (R296). -/
def execRolRm1 (w : Width) (rm : Rm) (s : State) : Host.Outcome State Fault Refusal := perform (shiftRm .rol w rm 1) s
/-- ROL r/m, CL (R296). -/
def execRolRmCl (w : Width) (rm : Rm) (s : State) : Host.Outcome State Fault Refusal :=
  perform (shiftRm .rol w rm (s.reg8 CL)) s
/-- ROL r/m, imm8 (R296). -/
def execRolRmImm (w : Width) (rm : Rm) (count : Byte) (s : State) : Host.Outcome State Fault Refusal :=
  perform (shiftRm .rol w rm count) s

/-- ROR r/m, 1 (R297). -/
def execRorRm1 (w : Width) (rm : Rm) (s : State) : Host.Outcome State Fault Refusal := perform (shiftRm .ror w rm 1) s
/-- ROR r/m, CL (R297). -/
def execRorRmCl (w : Width) (rm : Rm) (s : State) : Host.Outcome State Fault Refusal :=
  perform (shiftRm .ror w rm (s.reg8 CL)) s
/-- ROR r/m, imm8 (R297). -/
def execRorRmImm (w : Width) (rm : Rm) (count : Byte) (s : State) : Host.Outcome State Fault Refusal :=
  perform (shiftRm .ror w rm count) s

/-- RCL r/m, 1 (R298). -/
def execRclRm1 (w : Width) (rm : Rm) (s : State) : Host.Outcome State Fault Refusal := perform (shiftRm .rcl w rm 1) s
/-- RCL r/m, CL (R298). -/
def execRclRmCl (w : Width) (rm : Rm) (s : State) : Host.Outcome State Fault Refusal :=
  perform (shiftRm .rcl w rm (s.reg8 CL)) s
/-- RCL r/m, imm8 (R298). -/
def execRclRmImm (w : Width) (rm : Rm) (count : Byte) (s : State) : Host.Outcome State Fault Refusal :=
  perform (shiftRm .rcl w rm count) s

/-- RCR r/m, 1 (R299). -/
def execRcrRm1 (w : Width) (rm : Rm) (s : State) : Host.Outcome State Fault Refusal := perform (shiftRm .rcr w rm 1) s
/-- RCR r/m, CL (R299). -/
def execRcrRmCl (w : Width) (rm : Rm) (s : State) : Host.Outcome State Fault Refusal :=
  perform (shiftRm .rcr w rm (s.reg8 CL)) s
/-- RCR r/m, imm8 (R299). -/
def execRcrRmImm (w : Width) (rm : Rm) (count : Byte) (s : State) : Host.Outcome State Fault Refusal :=
  perform (shiftRm .rcr w rm count) s

/-- SHL r/m, 1 (R300). -/
def execShlRm1 (w : Width) (rm : Rm) (s : State) : Host.Outcome State Fault Refusal := perform (shiftRm .shl w rm 1) s
/-- SHL r/m, CL (R300). -/
def execShlRmCl (w : Width) (rm : Rm) (s : State) : Host.Outcome State Fault Refusal :=
  perform (shiftRm .shl w rm (s.reg8 CL)) s
/-- SHL r/m, imm8 (R300). -/
def execShlRmImm (w : Width) (rm : Rm) (count : Byte) (s : State) : Host.Outcome State Fault Refusal :=
  perform (shiftRm .shl w rm count) s

/-- SHR r/m, 1 (R301). -/
def execShrRm1 (w : Width) (rm : Rm) (s : State) : Host.Outcome State Fault Refusal := perform (shiftRm .shr w rm 1) s
/-- SHR r/m, CL (R301). -/
def execShrRmCl (w : Width) (rm : Rm) (s : State) : Host.Outcome State Fault Refusal :=
  perform (shiftRm .shr w rm (s.reg8 CL)) s
/-- SHR r/m, imm8 (R301). -/
def execShrRmImm (w : Width) (rm : Rm) (count : Byte) (s : State) : Host.Outcome State Fault Refusal :=
  perform (shiftRm .shr w rm count) s

/-- SAR r/m, 1 (R302). -/
def execSarRm1 (w : Width) (rm : Rm) (s : State) : Host.Outcome State Fault Refusal := perform (shiftRm .sar w rm 1) s
/-- SAR r/m, CL (R302). -/
def execSarRmCl (w : Width) (rm : Rm) (s : State) : Host.Outcome State Fault Refusal :=
  perform (shiftRm .sar w rm (s.reg8 CL)) s
/-- SAR r/m, imm8 (R302). -/
def execSarRmImm (w : Width) (rm : Rm) (count : Byte) (s : State) : Host.Outcome State Fault Refusal :=
  perform (shiftRm .sar w rm count) s

end Sys2Proof.Machine
end

