-- ==== Sys2Proof/Machine/Strings.lean ====
section
/-! DEFINITION. The string instructions and the repeat prefixes (43_string.md). One step is one iteration. -/

namespace Sys2Proof.Machine

/-- The step of an index register (R310). -/
def State.stringDelta (s : State) (w : Width) : Word :=
  if s.flags.df then -(BitVec.ofNat 16 w.bytes) else BitVec.ofNat 16 w.bytes

/-- Step an index register (R310). -/
def State.stepIndex (s : State) (r : Reg) (w : Width) : State := s.setReg r (s.reg r + s.stringDelta w)

/-- The segment of the source element (R310). -/
def State.sourceSeg (s : State) : SReg := s.overrideOr .ds

/-- Why the source element may not be read. -/
def State.sourceStop (s : State) (w : Width) : Option Stop := s.accessStop s.sourceSeg (s.reg SI) w false

/-- The source element, at DS:SI or the override (R310). -/
def State.source (s : State) (w : Width) : BitVec w.bits := s.load s.sourceSeg (s.reg SI) w

/-- Why the destination element may not be accessed. -/
def State.destStop (s : State) (w : Width) (write : Bool) : Option Stop := s.accessStop .es (s.reg DI) w write

/-- The destination element, at ES:DI (R310). -/
def State.dest (s : State) (w : Width) : BitVec w.bits := s.load .es (s.reg DI) w

/-- Store the destination element. -/
def State.setDest (s : State) (w : Width) (v : BitVec w.bits) : State := s.store .es (s.reg DI) w v

/-- MOVS once (R311). -/
def movsOnce (w : Width) : M Unit := do
  check fun s => s.sourceStop w
  check fun s => s.destStop w true
  update fun s => ((s.setDest w (s.source w)).stepIndex SI w).stepIndex DI w

/-- CMPS once (R312). -/
def cmpsOnce (w : Width) : M Unit := do
  check fun s => s.sourceStop w
  check fun s => s.destStop w false
  update fun s =>
    { (s.stepIndex SI w).stepIndex DI w with flags := subFlags s.flags (s.source w) (s.dest w) false }

/-- SCAS once (R313). -/
def scasOnce (w : Width) : M Unit := do
  check fun s => s.destStop w false
  update fun s => { s.stepIndex DI w with flags := subFlags s.flags (s.acc w) (s.dest w) false }

/-- LODS once (R314). -/
def lodsOnce (w : Width) : M Unit := do
  check fun s => s.sourceStop w
  update fun s => (s.setAcc w (s.source w)).stepIndex SI w

/-- STOS once (R315). -/
def stosOnce (w : Width) : M Unit := do
  check fun s => s.destStop w true
  update fun s => (s.setDest w (s.acc w)).stepIndex DI w

/-- INS once: the destination is tested before the port is read (R316, 92_eei_decisions.md D21). -/
def insOnce (w : Width) : M Unit := do
  requireIopl
  check fun s => s.destStop w true
  let v ← (do ioRead (← look fun s => s.reg DX) w)
  update fun s => (s.setDest w v).stepIndex DI w

/-- OUTS once (R317). -/
def outsOnce (w : Width) : M Unit := do
  requireIopl
  check fun s => s.sourceStop w
  update fun s => (s.ioWrite (s.reg DX) w (s.source w)).stepIndex SI w

/-- The instruction is to be executed again from its first prefix (R321). -/
def State.rewind (s : State) : State := { s with ip := s.curIp, ipWrap := false }

/-- The end of an iteration of `i` that is not the last: the instruction stays as it was decoded. R321 says that a
single-step trap "may be taken" here: whether one is taken after each iteration is open (log entry 47). -/
def State.nextIteration (s : State) (i : Instr) : State :=
  { s.rewind with
    trap := s.trap && Config.stepsEachIteration
    repeating := some { instr := i, pfx := s.pfx, ip := s.ip, ipWrap := s.ipWrap } }

/-- One iteration of `i` under a repeat prefix whose z bit is `z` (R320): nothing for CX = 0; otherwise the primitive, CX
less one, and the end of the instruction at CX = 0 or, for a comparison, at ZF other than z. -/
def iterate (i : Instr) (compares : Bool) (z : Bool) (once : M Unit) : M Unit := do
  let cx ← look fun s => s.reg CX
  if cx = 0 then pure ()
  else do
    once
    update fun s => s.setReg CX (s.reg CX - 1)
    let ends ← look fun s => s.reg CX == 0 || (compares && s.flags.zf != z)
    if ends then pure () else update fun s => s.nextIteration i

/-- A string instruction `i`, alone or under its repeat prefix (R320). `compares` marks CMPS and SCAS. -/
def stringInstr (i : Instr) (compares : Bool) (once : M Unit) (s : State) : Host.Outcome State Fault Refusal :=
  match s.pfx.rep with
  | none => performString once s
  | some z => performString (iterate i compares z once) s

/-- MOVS (R311). -/
def execMovs (w : Width) (s : State) : Host.Outcome State Fault Refusal := stringInstr (.movs w) false (movsOnce w) s
/-- CMPS (R312). -/
def execCmps (w : Width) (s : State) : Host.Outcome State Fault Refusal := stringInstr (.cmps w) true (cmpsOnce w) s
/-- SCAS (R313). -/
def execScas (w : Width) (s : State) : Host.Outcome State Fault Refusal := stringInstr (.scas w) true (scasOnce w) s
/-- LODS (R314). -/
def execLods (w : Width) (s : State) : Host.Outcome State Fault Refusal := stringInstr (.lods w) false (lodsOnce w) s
/-- STOS (R315). -/
def execStos (w : Width) (s : State) : Host.Outcome State Fault Refusal := stringInstr (.stos w) false (stosOnce w) s
/-- INS (R316). -/
def execIns (w : Width) (s : State) : Host.Outcome State Fault Refusal := stringInstr (.ins w) false (insOnce w) s
/-- OUTS (R317). -/
def execOuts (w : Width) (s : State) : Host.Outcome State Fault Refusal := stringInstr (.outs w) false (outsOnce w) s

/-- A prefix byte is recorded; the instruction that follows it uses it (30_encoding.md R151, R170). Log entry 8. -/
def State.addPrefix (s : State) (f : Prefixes → Prefixes) : State :=
  { s with pfx := { f s.pfx with len := s.pfx.len + 1 } }

/-- REP, REPE, REPZ: the prefix 0xF3, z = 1 (R320). DESIGN CHOICE: of several repeat prefixes before one instruction the
last counts (log entry 10). -/
def execRep (s : State) : Host.Outcome State Fault Refusal :=
  .next (s.addPrefix fun p => { p with rep := some true })

/-- REPNE, REPNZ: the prefix 0xF2, z = 0 (R320). DESIGN CHOICE: of several repeat prefixes before one instruction the
last counts (log entry 10). -/
def execRepne (s : State) : Host.Outcome State Fault Refusal :=
  .next (s.addPrefix fun p => { p with rep := some false })

end Sys2Proof.Machine
end

