-- ==== Sys2Proof/Machine/ProcessorControl.lean ====
section
/-! DEFINITION. The processor control instructions, the LOCK and segment override prefixes, WAIT and ESC
(46_processor_control.md), and the undefined encodings. -/

namespace Sys2Proof.Machine

/-- CLC (R421). -/
def execClc (s : State) : Host.Outcome State Fault Refusal :=
  perform (update fun s => { s with flags := { s.flags with cf := false } }) s
/-- CMC (R422). -/
def execCmc (s : State) : Host.Outcome State Fault Refusal :=
  perform (update fun s => { s with flags := { s.flags with cf := !s.flags.cf } }) s
/-- STC (R423). -/
def execStc (s : State) : Host.Outcome State Fault Refusal :=
  perform (update fun s => { s with flags := { s.flags with cf := true } }) s
/-- CLD (R424). -/
def execCld (s : State) : Host.Outcome State Fault Refusal :=
  perform (update fun s => { s with flags := { s.flags with df := false } }) s
/-- STD (R425). -/
def execStd (s : State) : Host.Outcome State Fault Refusal :=
  perform (update fun s => { s with flags := { s.flags with df := true } }) s

/-- CLI (R426). -/
def execCli (s : State) : Host.Outcome State Fault Refusal :=
  perform (do
    requireIopl
    update fun s => { s with flags := { s.flags with ie := false } }) s

/-- STI, with the hold-off of INTR where the implementation has it (R427, log entry 16). -/
def execSti (s : State) : Host.Outcome State Fault Refusal :=
  perform (do
    requireIopl
    update fun s =>
      { s with flags := { s.flags with ie := true }, inhibitIntr := Config.stiInhibitsOneInstruction }) s

/-- HLT (R428). -/
def execHlt (s : State) : Host.Outcome State Fault Refusal :=
  perform (do
    requireCpl0
    update fun s => { s with halted := true, bus := .halt :: s.bus }) s

/-- LOCK: the prefix 0xF0; its privilege test is made when the instruction is executed (R431). Log entry 37. -/
def execLock (s : State) : Host.Outcome State Fault Refusal := .next (s.addPrefix fun p => { p with lock := true })

/-- The segment override prefixes; a later one replaces an earlier one (R436, 30_encoding.md R151). -/
def execSegOverride (sr : SReg) (s : State) : Host.Outcome State Fault Refusal :=
  .next (s.addPrefix fun p => { p with seg := some sr })

/-! The processor extension. -/

/-- ExtNotAvailable (60_exceptions.md R517). -/
abbrev extNotAvailable : Stop := .exc 7 none

/-- ExtError (60_exceptions.md R529). -/
abbrev extError : Stop := .exc 16 none

/-- BUSY is active: the instruction is to be executed again, and has not completed (R432). Log entry 26. -/
def State.stall (s : State) : State := { s.rewind with trap := false }

/-- WAIT (R432). -/
def execWait (s : State) : Host.Outcome State Fault Refusal :=
  perform (do
    require (fun s => !(s.msw.ts && s.msw.mp)) extNotAvailable
    if s.pins.busy then update State.stall
    else require (fun s => !s.pins.error) extError) s

/-- The test of the operand's starting address: none in real mode (R433, 60_exceptions.md R565 note 17). -/
def State.escStop (s : State) (ttt lll : BitVec 3) (rm : Rm) : Option Stop :=
  match rm with
  | .reg _ => none
  | .mem m => s.memStop m 0 .byte (Config.escWritesMemory ttt lll)

/-- The opcode, mod, r/m and the operand address handed to the processor extension (R433, R435). Log entry 25. -/
def State.escape (s : State) (ttt lll : BitVec 3) (rm : Rm) : State :=
  match rm with
  | .reg _ => { s with bus := .escape ttt lll (rmMode rm) (rmNumber rm) none :: s.bus }
  | .mem m =>
    let g := s.seg (s.eaSeg m)
    { s with
      bus := .escape ttt lll (rmMode rm) (rmNumber rm) (some (g.base, s.ea m)) :: s.bus
      ext := some { segment := g, off := (s.ea m).toNat, toMemory := Config.escWritesMemory ttt lll } }

/-- ESC (R433). -/
def execEsc (ttt lll : BitVec 3) (rm : Rm) (s : State) : Host.Outcome State Fault Refusal :=
  perform (do
    require (fun s => !(s.msw.em || s.msw.ts)) extNotAvailable
    check fun s => s.escStop ttt lll rm
    if s.pins.busy && Config.escWaitsForBusy ttt lll then update State.stall
    else do
      require (fun s => !(s.pins.error && Config.escTestsError ttt lll)) extError
      update fun s => s.escape ttt lll rm) s

/-- CLTS (R434). -/
def execClts (s : State) : Host.Outcome State Fault Refusal :=
  perform (do
    requireCpl0
    update fun s => { s with msw := { s.msw with ts := false } }) s

/-- An undefined encoding raises InvalidOpcode, whatever its prefixes (30_encoding.md R167, R170). -/
def execUndefined (_u : Undefined) (s : State) : Host.Outcome State Fault Refusal := takeException 6 none s

end Sys2Proof.Machine
end

