-- ==== Sys2Proof/Machine/Protection.lean ====
section
/-! DEFINITION. The protection control instructions (47_protection_control.md). -/

namespace Sys2Proof.Machine

/-! GDTR and IDTR. -/

/-- A limit and a base from a six-byte operand; byte +5 is ignored (R440, 20_memory.md R107). -/
def State.tableOperand (s : State) (m : MemOp) : TableReg :=
  { limit := s.memWord m 0, base := lowByte (s.memWord m 2) ++ s.memWord m 1 }

/-- The six-byte operand of LGDT and LIDT, its three words checked first (R440). -/
def readTable (m : MemOp) : M TableReg := do
  requireCpl0
  check fun s => s.wordsStop m 3 false
  look fun s => s.tableOperand m

/-- The six-byte form of a table register; byte +5 takes a free value (R441, 93_implementation_defined.md U13). Log
entry 23. -/
def State.storeTable (s : State) (m : MemOp) (t : TableReg) (n : Nat) : State :=
  ((s.setMem m 0 .word t.limit).setMem m 2 .word (t.base.setWidth 16)).setMem m 4 .word
    (concatBytes (Config.freeByte n) (t.base.extractLsb' 16 8))

/-- LGDT (R440). -/
def execLgdt (m : MemOp) (s : State) : Host.Outcome State Fault Refusal :=
  perform (do
    let t ← readTable m
    update fun s => { s with gdtr := t }) s

/-- SGDT (R441). -/
def execSgdt (m : MemOp) (s : State) : Host.Outcome State Fault Refusal :=
  perform (do
    check fun s => s.wordsStop m 3 true
    let n ← draw 1
    update fun s => s.storeTable m s.gdtr n) s

/-- LIDT (R442). -/
def execLidt (m : MemOp) (s : State) : Host.Outcome State Fault Refusal :=
  perform (do
    let t ← readTable m
    update fun s => { s with idtr := t }) s

/-- SIDT (R443). -/
def execSidt (m : MemOp) (s : State) : Host.Outcome State Fault Refusal :=
  perform (do
    check fun s => s.wordsStop m 3 true
    let n ← draw 1
    update fun s => s.storeTable m s.idtr n) s

/-! LDTR and TR. -/

/-- The load of LDTR (R444). -/
def loadLdtr (sel : Word) : M Unit :=
  if isNull sel then update fun s => { s with ldtr := { s.ldtr with sel := sel, valid := false } }
  else do
    require (fun _ => !selectorTi sel) (generalProtection (errSel sel))
    let d ← readDescriptor sel (generalProtection (errSel sel))
    require (fun _ => d.systemType == some 2) (generalProtection (errSel sel))
    require (fun _ => d.present) (notPresent (errSel sel))
    update fun s => { s with ldtr := { sel := sel, base := d.base, limit := d.limit, valid := true } }

/-- LLDT (R444). -/
def execLldt (rm : Rm) (s : State) : Host.Outcome State Fault Refusal :=
  performProtected (do
    requireCpl0
    loadLdtr (← readRm rm .word)) s

/-- SLDT (R445). -/
def execSldt (rm : Rm) (s : State) : Host.Outcome State Fault Refusal :=
  performProtected (do writeRm rm .word (← look fun s => s.ldtr.sel)) s

/-- The load of TR: the descriptor is marked busy (R446). -/
def loadTr (sel : Word) : M Unit := do
  require (fun _ => !isNull sel && !selectorTi sel) (generalProtection (errSel sel))
  let d ← readDescriptor sel (generalProtection (errSel sel))
  require (fun _ => d.systemType == some 1) (generalProtection (errSel sel))
  require (fun _ => d.present) (notPresent (errSel sel))
  update fun s =>
    { s.setSystemType d.addr 3 with tr := { sel := sel, base := d.base, limit := d.limit } }

/-- LTR (R446). -/
def execLtr (rm : Rm) (s : State) : Host.Outcome State Fault Refusal :=
  performProtected (do
    requireCpl0
    loadTr (← readRm rm .word)) s

/-- STR (R447). -/
def execStr (rm : Rm) (s : State) : Host.Outcome State Fault Refusal :=
  performProtected (do writeRm rm .word (← look fun s => s.tr.sel)) s

/-! MSW. -/

/-- The new MSW of LMSW: PE is never cleared (R448). -/
def Msw.load (m : Msw) (v : Word) : Msw :=
  { pe := m.pe || v.getLsbD 0, mp := v.getLsbD 1, em := v.getLsbD 2, ts := v.getLsbD 3 }

/-- Whether LMSW would enter protected mode with a nonzero CPL (93_implementation_defined.md U15). Log entry 32. -/
def State.entersWithCpl (s : State) (v : Word) : Bool := !s.msw.pe && v.getLsbD 0 && s.cs.sel.extractLsb' 0 2 != 0#2

/-- LMSW (R448). Where it sets PE the instructions after it may be queued as decoded in real mode (10_state.md R42 (b)).
-/
def execLmsw (rm : Rm) (s : State) : Host.Outcome State Fault Refusal :=
  perform (do
    requireCpl0
    let v ← readRm rm .word
    require (fun s => !s.entersWithCpl v) (.refused .protectedEntryCpl)
    update fun s =>
      { s with
        msw := s.msw.load v
        realQueue := if !s.msw.pe && v.getLsbD 0 then some { off := s.ip, decoded := true } else s.realQueue }) s

/-- SMSW (R449). -/
def execSmsw (rm : Rm) (s : State) : Host.Outcome State Fault Refusal :=
  perform (do writeRm rm .word (← look fun s => s.msw.image)) s

/-! Pointer tests. -/

/-- The descriptor a selector names, if it is not null and lies inside its table (R450). -/
def probe (sel : Word) : M (Option Descriptor) := do
  let a ← look fun s => if isNull sel then none else s.descriptorAddr sel
  match a with
  | none => pure none
  | some a => do
    let d ← readDescriptorAt a
    pure (some d)

/-- The privilege test of the pointer tests: a conforming code segment at any level (R450, R452). -/
def State.levelAllows (s : State) (d : Descriptor) (sel : Word) : Bool := d.isConforming || s.epl sel ≤ d.dpl

/-- ZF. -/
def State.setZf (s : State) (v : Bool) : State := { s with flags := { s.flags with zf := v } }

/-- The end of a successful pointer test: the accessed bit of a segment descriptor, ZF (R452). -/
def State.testPassed (s : State) (d : Descriptor) : State :=
  (if d.isSegment then s.setAccessed d else s).setZf true

/-- A pointer test of the selector in r/m: `accepts` says which descriptors pass, `result` what a passed test does
besides (R450 to R453, 60_exceptions.md R565 note 16). -/
def pointerTest (rm : Rm) (accepts : State → Descriptor → Word → Bool) (result : Descriptor → State → State) :
    M Unit := do
  let sel ← readRm rm .word
  let found ← probe sel
  match found with
  | none => update fun s => s.setZf false
  | some d => update fun s => if accepts s d sel then result d (s.testPassed d) else s.setZf false

/-- VERR (R450). -/
def execVerr (rm : Rm) (s : State) : Host.Outcome State Fault Refusal :=
  performProtected (pointerTest rm (fun s d sel => d.isReadable && s.levelAllows d sel) (fun _ s => s)) s

/-- VERW (R451). -/
def execVerw (rm : Rm) (s : State) : Host.Outcome State Fault Refusal :=
  performProtected (pointerTest rm (fun s d sel => d.isWritableData && s.epl sel ≤ d.dpl) (fun _ s => s)) s

/-- The descriptor types LAR accepts: segments and types 1 to 5 (R452). -/
def Descriptor.larAccepts (d : Descriptor) : Bool :=
  match d.systemType with
  | none => true
  | some t => 1 ≤ t && t ≤ 5

/-- The access rights byte as LAR returns it: after a successful test of a segment A reads 1 (R452). -/
def Descriptor.testedRights (d : Descriptor) : Byte := if d.isSegment then d.ar ||| 1 else d.ar

/-- LAR (R452). -/
def execLar (r : Reg) (rm : Rm) (s : State) : Host.Outcome State Fault Refusal :=
  performProtected
    (pointerTest rm (fun s d sel => d.larAccepts && s.levelAllows d sel)
      (fun d s => s.setReg r (concatBytes d.testedRights 0))) s

/-- The descriptor types LSL accepts: segments and types 1 to 3 (R453). -/
def Descriptor.lslAccepts (d : Descriptor) : Bool :=
  match d.systemType with
  | none => true
  | some t => 1 ≤ t && t ≤ 3

/-- LSL (R453). -/
def execLsl (r : Reg) (rm : Rm) (s : State) : Host.Outcome State Fault Refusal :=
  performProtected
    (pointerTest rm (fun s d sel => d.lslAccepts && s.levelAllows d sel) (fun d s => s.setReg r d.limit)) s

/-- ARPL (R454). -/
def execArpl (rm : Rm) (r : Reg) (s : State) : Host.Outcome State Fault Refusal :=
  performProtected (do
    let d ← readRm rm .word
    let floor ← look fun s => selectorRpl (s.reg r)
    if selectorRpl d < floor then do
      writeRm rm .word (withRpl d floor)
      update fun s => s.setZf true
    else update fun s => s.setZf false) s

end Sys2Proof.Machine
end

