-- ==== Sys2Proof/Machine/Dispatch.lean ====
section
/-! DEFINITION. The meaning of each instruction, one arm for each constructor. -/

namespace Sys2Proof.Machine

def exec (i : Instr) (s : State) : Host.Outcome State Fault Refusal :=
  match i with
  | .movRmReg w rm r => Sys2Proof.Machine.execMovRmReg w rm r s
  | .movRegRm w r rm => Sys2Proof.Machine.execMovRegRm w r rm s
  | .movRmImm rm imm => Sys2Proof.Machine.execMovRmImm rm imm s
  | .movRegImm r imm => Sys2Proof.Machine.execMovRegImm r imm s
  | .movAccMem w off => Sys2Proof.Machine.execMovAccMem w off s
  | .movMemAcc w off => Sys2Proof.Machine.execMovMemAcc w off s
  | .movSregRm sr rm => Sys2Proof.Machine.execMovSregRm sr rm s
  | .movRmSreg rm sr => Sys2Proof.Machine.execMovRmSreg rm sr s
  | .pushRm rm => Sys2Proof.Machine.execPushRm rm s
  | .pushReg r => Sys2Proof.Machine.execPushReg r s
  | .pushSreg sr => Sys2Proof.Machine.execPushSreg sr s
  | .pushImm imm => Sys2Proof.Machine.execPushImm imm s
  | .pusha => Sys2Proof.Machine.execPusha s
  | .popRm rm => Sys2Proof.Machine.execPopRm rm s
  | .popReg r => Sys2Proof.Machine.execPopReg r s
  | .popSreg sr => Sys2Proof.Machine.execPopSreg sr s
  | .popa => Sys2Proof.Machine.execPopa s
  | .xchgRmReg w rm r => Sys2Proof.Machine.execXchgRmReg w rm r s
  | .xchgAx r => Sys2Proof.Machine.execXchgAx r s
  | .nop => Sys2Proof.Machine.execNop s
  | .inPort w port => Sys2Proof.Machine.execInPort w port s
  | .inDx w => Sys2Proof.Machine.execInDx w s
  | .outPort w port => Sys2Proof.Machine.execOutPort w port s
  | .outDx w => Sys2Proof.Machine.execOutDx w s
  | .xlat => Sys2Proof.Machine.execXlat s
  | .lea r m => Sys2Proof.Machine.execLea r m s
  | .lds r m => Sys2Proof.Machine.execLds r m s
  | .les r m => Sys2Proof.Machine.execLes r m s
  | .lahf => Sys2Proof.Machine.execLahf s
  | .sahf => Sys2Proof.Machine.execSahf s
  | .pushf => Sys2Proof.Machine.execPushf s
  | .popf => Sys2Proof.Machine.execPopf s
  | .addRmReg w d rm r => Sys2Proof.Machine.execAddRmReg w d rm r s
  | .addRmImm rm imm => Sys2Proof.Machine.execAddRmImm rm imm s
  | .addAccImm imm => Sys2Proof.Machine.execAddAccImm imm s
  | .adcRmReg w d rm r => Sys2Proof.Machine.execAdcRmReg w d rm r s
  | .adcRmImm rm imm => Sys2Proof.Machine.execAdcRmImm rm imm s
  | .adcAccImm imm => Sys2Proof.Machine.execAdcAccImm imm s
  | .incRm w rm => Sys2Proof.Machine.execIncRm w rm s
  | .incReg r => Sys2Proof.Machine.execIncReg r s
  | .subRmReg w d rm r => Sys2Proof.Machine.execSubRmReg w d rm r s
  | .subRmImm rm imm => Sys2Proof.Machine.execSubRmImm rm imm s
  | .subAccImm imm => Sys2Proof.Machine.execSubAccImm imm s
  | .sbbRmReg w d rm r => Sys2Proof.Machine.execSbbRmReg w d rm r s
  | .sbbRmImm rm imm => Sys2Proof.Machine.execSbbRmImm rm imm s
  | .sbbAccImm imm => Sys2Proof.Machine.execSbbAccImm imm s
  | .decRm w rm => Sys2Proof.Machine.execDecRm w rm s
  | .decReg r => Sys2Proof.Machine.execDecReg r s
  | .cmpRmReg w d rm r => Sys2Proof.Machine.execCmpRmReg w d rm r s
  | .cmpRmImm rm imm => Sys2Proof.Machine.execCmpRmImm rm imm s
  | .cmpAccImm imm => Sys2Proof.Machine.execCmpAccImm imm s
  | .negRm w rm => Sys2Proof.Machine.execNegRm w rm s
  | .aaa => Sys2Proof.Machine.execAaa s
  | .daa => Sys2Proof.Machine.execDaa s
  | .aas => Sys2Proof.Machine.execAas s
  | .das => Sys2Proof.Machine.execDas s
  | .mulRm w rm => Sys2Proof.Machine.execMulRm w rm s
  | .imulRm w rm => Sys2Proof.Machine.execImulRm w rm s
  | .imulRegRmImm r rm imm => Sys2Proof.Machine.execImulRegRmImm r rm imm s
  | .divRm w rm => Sys2Proof.Machine.execDivRm w rm s
  | .idivRm w rm => Sys2Proof.Machine.execIdivRm w rm s
  | .aam => Sys2Proof.Machine.execAam s
  | .aad => Sys2Proof.Machine.execAad s
  | .cbw => Sys2Proof.Machine.execCbw s
  | .cwd => Sys2Proof.Machine.execCwd s
  | .andRmReg w d rm r => Sys2Proof.Machine.execAndRmReg w d rm r s
  | .andRmImm rm imm => Sys2Proof.Machine.execAndRmImm rm imm s
  | .andAccImm imm => Sys2Proof.Machine.execAndAccImm imm s
  | .testRmReg w rm r => Sys2Proof.Machine.execTestRmReg w rm r s
  | .testRmImm rm imm => Sys2Proof.Machine.execTestRmImm rm imm s
  | .testAccImm imm => Sys2Proof.Machine.execTestAccImm imm s
  | .orRmReg w d rm r => Sys2Proof.Machine.execOrRmReg w d rm r s
  | .orRmImm rm imm => Sys2Proof.Machine.execOrRmImm rm imm s
  | .orAccImm imm => Sys2Proof.Machine.execOrAccImm imm s
  | .xorRmReg w d rm r => Sys2Proof.Machine.execXorRmReg w d rm r s
  | .xorRmImm rm imm => Sys2Proof.Machine.execXorRmImm rm imm s
  | .xorAccImm imm => Sys2Proof.Machine.execXorAccImm imm s
  | .notRm w rm => Sys2Proof.Machine.execNotRm w rm s
  | .rolRm1 w rm => Sys2Proof.Machine.execRolRm1 w rm s
  | .rolRmCl w rm => Sys2Proof.Machine.execRolRmCl w rm s
  | .rolRmImm w rm count => Sys2Proof.Machine.execRolRmImm w rm count s
  | .rorRm1 w rm => Sys2Proof.Machine.execRorRm1 w rm s
  | .rorRmCl w rm => Sys2Proof.Machine.execRorRmCl w rm s
  | .rorRmImm w rm count => Sys2Proof.Machine.execRorRmImm w rm count s
  | .rclRm1 w rm => Sys2Proof.Machine.execRclRm1 w rm s
  | .rclRmCl w rm => Sys2Proof.Machine.execRclRmCl w rm s
  | .rclRmImm w rm count => Sys2Proof.Machine.execRclRmImm w rm count s
  | .rcrRm1 w rm => Sys2Proof.Machine.execRcrRm1 w rm s
  | .rcrRmCl w rm => Sys2Proof.Machine.execRcrRmCl w rm s
  | .rcrRmImm w rm count => Sys2Proof.Machine.execRcrRmImm w rm count s
  | .shlRm1 w rm => Sys2Proof.Machine.execShlRm1 w rm s
  | .shlRmCl w rm => Sys2Proof.Machine.execShlRmCl w rm s
  | .shlRmImm w rm count => Sys2Proof.Machine.execShlRmImm w rm count s
  | .shrRm1 w rm => Sys2Proof.Machine.execShrRm1 w rm s
  | .shrRmCl w rm => Sys2Proof.Machine.execShrRmCl w rm s
  | .shrRmImm w rm count => Sys2Proof.Machine.execShrRmImm w rm count s
  | .sarRm1 w rm => Sys2Proof.Machine.execSarRm1 w rm s
  | .sarRmCl w rm => Sys2Proof.Machine.execSarRmCl w rm s
  | .sarRmImm w rm count => Sys2Proof.Machine.execSarRmImm w rm count s
  | .movs w => Sys2Proof.Machine.execMovs w s
  | .cmps w => Sys2Proof.Machine.execCmps w s
  | .scas w => Sys2Proof.Machine.execScas w s
  | .lods w => Sys2Proof.Machine.execLods w s
  | .stos w => Sys2Proof.Machine.execStos w s
  | .ins w => Sys2Proof.Machine.execIns w s
  | .outs w => Sys2Proof.Machine.execOuts w s
  | .rep => Sys2Proof.Machine.execRep s
  | .repne => Sys2Proof.Machine.execRepne s
  | .jmpShort disp => Sys2Proof.Machine.execJmpShort disp s
  | .jmpNear disp => Sys2Proof.Machine.execJmpNear disp s
  | .jmpRm rm => Sys2Proof.Machine.execJmpRm rm s
  | .jmpFar off sel => Sys2Proof.Machine.execJmpFar off sel s
  | .jmpFarMem m => Sys2Proof.Machine.execJmpFarMem m s
  | .callNear disp => Sys2Proof.Machine.execCallNear disp s
  | .callRm rm => Sys2Proof.Machine.execCallRm rm s
  | .callFar off sel => Sys2Proof.Machine.execCallFar off sel s
  | .callFarMem m => Sys2Proof.Machine.execCallFarMem m s
  | .jo disp => Sys2Proof.Machine.execJo disp s
  | .jno disp => Sys2Proof.Machine.execJno disp s
  | .jb disp => Sys2Proof.Machine.execJb disp s
  | .jnb disp => Sys2Proof.Machine.execJnb disp s
  | .je disp => Sys2Proof.Machine.execJe disp s
  | .jne disp => Sys2Proof.Machine.execJne disp s
  | .jbe disp => Sys2Proof.Machine.execJbe disp s
  | .jnbe disp => Sys2Proof.Machine.execJnbe disp s
  | .js disp => Sys2Proof.Machine.execJs disp s
  | .jns disp => Sys2Proof.Machine.execJns disp s
  | .jp disp => Sys2Proof.Machine.execJp disp s
  | .jnp disp => Sys2Proof.Machine.execJnp disp s
  | .jl disp => Sys2Proof.Machine.execJl disp s
  | .jnl disp => Sys2Proof.Machine.execJnl disp s
  | .jle disp => Sys2Proof.Machine.execJle disp s
  | .jnle disp => Sys2Proof.Machine.execJnle disp s
  | .loop disp => Sys2Proof.Machine.execLoop disp s
  | .loopz disp => Sys2Proof.Machine.execLoopz disp s
  | .loopnz disp => Sys2Proof.Machine.execLoopnz disp s
  | .jcxz disp => Sys2Proof.Machine.execJcxz disp s
  | .retNear => Sys2Proof.Machine.execRetNear s
  | .retNearImm n => Sys2Proof.Machine.execRetNearImm n s
  | .retFar => Sys2Proof.Machine.execRetFar s
  | .retFarImm n => Sys2Proof.Machine.execRetFarImm n s
  | .enter size level => Sys2Proof.Machine.execEnter size level s
  | .leave => Sys2Proof.Machine.execLeave s
  | .bound r m => Sys2Proof.Machine.execBound r m s
  | .intN v => Sys2Proof.Machine.execIntN v s
  | .int3 => Sys2Proof.Machine.execInt3 s
  | .into => Sys2Proof.Machine.execInto s
  | .iret => Sys2Proof.Machine.execIret s
  | .clc => Sys2Proof.Machine.execClc s
  | .cmc => Sys2Proof.Machine.execCmc s
  | .stc => Sys2Proof.Machine.execStc s
  | .cld => Sys2Proof.Machine.execCld s
  | .std => Sys2Proof.Machine.execStd s
  | .cli => Sys2Proof.Machine.execCli s
  | .sti => Sys2Proof.Machine.execSti s
  | .hlt => Sys2Proof.Machine.execHlt s
  | .lock => Sys2Proof.Machine.execLock s
  | .wait => Sys2Proof.Machine.execWait s
  | .esc ttt lll rm => Sys2Proof.Machine.execEsc ttt lll rm s
  | .clts => Sys2Proof.Machine.execClts s
  | .segOverride sr => Sys2Proof.Machine.execSegOverride sr s
  | .lgdt m => Sys2Proof.Machine.execLgdt m s
  | .sgdt m => Sys2Proof.Machine.execSgdt m s
  | .lidt m => Sys2Proof.Machine.execLidt m s
  | .sidt m => Sys2Proof.Machine.execSidt m s
  | .lldt rm => Sys2Proof.Machine.execLldt rm s
  | .sldt rm => Sys2Proof.Machine.execSldt rm s
  | .ltr rm => Sys2Proof.Machine.execLtr rm s
  | .str rm => Sys2Proof.Machine.execStr rm s
  | .lmsw rm => Sys2Proof.Machine.execLmsw rm s
  | .smsw rm => Sys2Proof.Machine.execSmsw rm s
  | .verr rm => Sys2Proof.Machine.execVerr rm s
  | .verw rm => Sys2Proof.Machine.execVerw rm s
  | .lar r rm => Sys2Proof.Machine.execLar r rm s
  | .lsl r rm => Sys2Proof.Machine.execLsl r rm s
  | .arpl rm r => Sys2Proof.Machine.execArpl rm r s
  | .undefined u => Sys2Proof.Machine.execUndefined u s

end Sys2Proof.Machine
end

