-- ==== Sys2Proof/Machine/Events.lean ====
section
/-! DEFINITION. What happens between instructions: RESET, the single-step trap, hardware interrupts and the operand
transfers of the processor extension (60_exceptions.md R504 to R509, R544 to R546, 46_processor_control.md R435). -/

namespace Sys2Proof.Machine

/-- What a step does at an instruction boundary instead of an instruction. -/
inductive Event where
  | singleStep
  | nmi
  | overrun
  | interrupt (v : Byte)
  | operand
  deriving DecidableEq, Repr

/-- Whether an NMI ends shutdown: always in protected mode; in real mode with room for vector 2 and for the frame
(60_exceptions.md R546). -/
def State.nmiEndsShutdown (s : State) : Bool :=
  s.msw.pe || (0x000F ≤ s.idtr.limit.toNat && 5 < (s.reg SP).toNat)

/-- Whether an operand word of the processor extension is to be transferred (46_processor_control.md R435). -/
def State.operandReady (s : State) : Bool := s.ext.isSome && s.pins.pereq != 0 && !s.pereqInhibited

/-- The INTR request that may be taken now (60_exceptions.md R504, R506). -/
def State.interruptReady (s : State) : Option Byte :=
  if s.flags.ie && !s.nmiInService && !s.inhibitAll && !s.inhibitIntr then s.pins.intr else none

/-- The event of a boundary outside shutdown, in the order of 60_exceptions.md R508, R509. -/
def State.runningEvent (s : State) : Option Event :=
  if s.trap && !s.inhibitAll then some .singleStep
  else if s.nmiPending && !s.nmiInService && !s.inhibitAll then some .nmi
  else if s.overrunPending && !s.nmiInService then some .overrun
  else
    match s.interruptReady with
    | some v => some (.interrupt v)
    | none => if s.operandReady then some .operand else none

/-- The event of a boundary (60_exceptions.md R509, R544, R546). Log entry 15. -/
def State.event (s : State) : Option Event :=
  if s.shutdown then
    if s.nmiPending && !s.nmiInService && s.nmiEndsShutdown then some .nmi
    else if s.operandReady then some .operand
    else none
  else s.runningEvent

/-- Why the next operand word of the processor extension may not be transferred: it lies beyond offset 0xFFFF, or its
access is not allowed (60_exceptions.md R519). -/
def State.operandStop (s : State) (o : ExtOperand) : Option Stop :=
  if 0xFFFF ≤ o.off then some (generalProtection 0)
  else segmentStop s o.segment false (BitVec.ofNat 16 o.off) .word o.toMemory

/-- One operand word between the processor extension and memory; a limit violation is the segment overrun
(46_processor_control.md R435, 60_exceptions.md R519). Log entry 25. DESIGN CHOICE: no instruction makes this store, and
20_memory.md R141 counts its window from the end of the storing instruction; here the code bytes that may run stale are
the `Config.prefetchWindow` bytes from the first byte of the next instruction on. Log entry 13. -/
def State.transferOperand (s : State) (o : ExtOperand) : Host.Outcome State Fault Refusal :=
  let t := { s with pins := { s.pins with pereq := s.pins.pereq - 1 } }
  let off : Word := BitVec.ofNat 16 o.off
  match s.operandStop o with
  | some (.fault f) => .fault f
  | some _ =>
    .next { t with
      ext := none
      overrunPending := s.overrunPending || !s.shutdown
      pereqInhibited := s.pereqInhibited || s.shutdown }
  | none =>
    let v := if o.toMemory then Config.freeWord s.free else s.loadVia o.segment off .word
    let u := if o.toMemory then t.storeVia o.segment off .word v else t
    .next { u with
      ext := some { o with off := o.off + 2 }
      free := s.free + 1
      bus := .operandWord off o.toMemory v :: s.bus }

/-- Take an event. The interrupted program's next instruction is the current one of any exception of the entry
(60_exceptions.md R502, R520). DESIGN CHOICE: so the prefetch window of an operand store of the processor extension, of
which 20_memory.md R141 says nothing, begins at that instruction's first byte. Log entry 13. -/
def takeEvent (e : Event) (s : State) : Host.Outcome State Fault Refusal :=
  let s := { s with curIp := s.ip, ticks := s.ticks + 1 }
  match e with
  | .singleStep => takeInterrupt 1 s.ip false s
  | .nmi => takeInterrupt 2 s.ip true { s with nmiPending := false, nmiInService := true, pereqInhibited := false }
  | .overrun => takeInterrupt 9 s.ip true { s with overrunPending := false }
  | .interrupt v =>
    takeInterrupt v s.ip true { s with pins := { s.pins with intr := none }, bus := .acknowledge v :: s.bus }
  | .operand =>
    match s.ext with
    | some o => s.transferOperand o
    | none => .next s

/-- The effect of RESET: the state after reset, memory and the outside world unchanged (70_reset_and_hazards.md R600,
R602). -/
def State.resetByPin (s : State) : State :=
  { State.reset with mem := s.mem, pins := s.pins, board := s.board, bus := s.bus, free := s.free, ticks := s.ticks }

end Sys2Proof.Machine
end

