-- ==== Sys2Proof/WellFormed.lean ====
section
/-! DEFINITION. Which terms of the syntax stand for an encoding: the checks of the operand forms and the list of
undefined encodings. -/

namespace Sys2Proof

/-- `mod = 00` with `r/m = 110` is the direct address (30_encoding.md R156), so no base form has `r/m = 110`. -/
def MemOp.wf : MemOp → Bool
  | .base rm => rm != 6#3
  | .base8 _ _ => true
  | .base16 _ _ => true
  | .direct _ => true

/-- A register operand is always formed well, a memory operand by `MemOp.wf`. -/
def Rm.wf : Rm → Bool
  | .reg _ => true
  | .mem m => m.wf

/-- The `mod` field of a mod reg r/m byte (30_encoding.md R155). -/
def modField (b : Byte) : BitVec 2 := b.extractLsb' 6 2

/-- The `reg` field of a mod reg r/m byte (30_encoding.md R155). -/
def regField (b : Byte) : Reg := b.extractLsb' 3 3

/-- The `r/m` field of a mod reg r/m byte (30_encoding.md R155). -/
def rmField (b : Byte) : Reg := b.extractLsb' 0 3

/-- The undefined one-byte opcodes of 30_encoding.md R167. -/
def undefinedOpcode (op : Byte) : Bool :=
  op == 0x64 || op == 0x65 || op == 0x66 || op == 0x67 || op == 0xD6 || op == 0xF1

/-- The undefined second bytes after 0x0F of 30_encoding.md R167. -/
def undefinedPage0F (op2 : Byte) : Bool :=
  op2 == 4 || op2 == 5 || 7 ≤ op2.toNat

/-- The undefined mod reg r/m bytes of each one-byte opcode (30_encoding.md R167). -/
def undefinedGroup (op modrm : Byte) : Bool :=
  let reg := (regField modrm).toNat
  let isReg := modField modrm == 3#2
  if op == 0xC0 || op == 0xC1 || op == 0xD0 || op == 0xD1 || op == 0xD2 || op == 0xD3 then reg == 6
  else if op == 0xF6 || op == 0xF7 then reg == 1
  else if op == 0xFE then 2 ≤ reg
  else if op == 0xFF then reg == 7 || ((reg == 3 || reg == 5) && isReg)
  else if op == 0x8F || op == 0xC6 || op == 0xC7 then reg != 0
  else if op == 0x8C then 4 ≤ reg
  else if op == 0x8E then 4 ≤ reg || reg == 1
  else if op == 0x8D || op == 0xC4 || op == 0xC5 || op == 0x62 then isReg
  else false

/-- The undefined mod reg r/m bytes after 0x0F 0x00 and 0x0F 0x01 (30_encoding.md R167). -/
def undefinedGroup0F (op2 modrm : Byte) : Bool :=
  let reg := (regField modrm).toNat
  let isReg := modField modrm == 3#2
  if op2 == 0 then 6 ≤ reg
  else if op2 == 1 then reg == 5 || reg == 7 || (reg ≤ 3 && isReg)
  else false

/-- An undefined encoding is one that 30_encoding.md R167 lists. -/
def Undefined.wf : Undefined → Bool
  | .oneByte op => undefinedOpcode op
  | .page0F op2 => undefinedPage0F op2
  | .group op modrm => undefinedGroup op modrm
  | .group0F op2 modrm => undefinedGroup0F op2 modrm

/-- The checks of each instruction: its memory operand has an encoding, CS is no destination of MOV and POP
(30_encoding.md R176), XCHG AX, AX is the byte of NOP (R169). -/
def Instr.wf : Instr → Bool
  | .movRmReg _ rm _ => rm.wf
  | .movRegRm _ _ rm => rm.wf
  | .movRmImm rm _ => rm.wf
  | .movRegImm _ _ => true
  | .movAccMem _ _ => true
  | .movMemAcc _ _ => true
  | .movSregRm sr rm => sr != .cs && rm.wf
  | .movRmSreg rm _ => rm.wf
  | .pushRm rm => rm.wf
  | .pushReg _ => true
  | .pushSreg _ => true
  | .pushImm _ => true
  | .pusha => true
  | .popRm rm => rm.wf
  | .popReg _ => true
  | .popSreg sr => sr != .cs
  | .popa => true
  | .xchgRmReg _ rm _ => rm.wf
  | .xchgAx r => r != 0#3
  | .nop => true
  | .inPort _ _ => true
  | .inDx _ => true
  | .outPort _ _ => true
  | .outDx _ => true
  | .xlat => true
  | .lea _ m => m.wf
  | .lds _ m => m.wf
  | .les _ m => m.wf
  | .lahf => true
  | .sahf => true
  | .pushf => true
  | .popf => true
  | .addRmReg _ _ rm _ => rm.wf
  | .addRmImm rm _ => rm.wf
  | .addAccImm _ => true
  | .adcRmReg _ _ rm _ => rm.wf
  | .adcRmImm rm _ => rm.wf
  | .adcAccImm _ => true
  | .incRm _ rm => rm.wf
  | .incReg _ => true
  | .subRmReg _ _ rm _ => rm.wf
  | .subRmImm rm _ => rm.wf
  | .subAccImm _ => true
  | .sbbRmReg _ _ rm _ => rm.wf
  | .sbbRmImm rm _ => rm.wf
  | .sbbAccImm _ => true
  | .decRm _ rm => rm.wf
  | .decReg _ => true
  | .cmpRmReg _ _ rm _ => rm.wf
  | .cmpRmImm rm _ => rm.wf
  | .cmpAccImm _ => true
  | .negRm _ rm => rm.wf
  | .aaa => true
  | .daa => true
  | .aas => true
  | .das => true
  | .mulRm _ rm => rm.wf
  | .imulRm _ rm => rm.wf
  | .imulRegRmImm _ rm _ => rm.wf
  | .divRm _ rm => rm.wf
  | .idivRm _ rm => rm.wf
  | .aam => true
  | .aad => true
  | .cbw => true
  | .cwd => true
  | .andRmReg _ _ rm _ => rm.wf
  | .andRmImm rm _ => rm.wf
  | .andAccImm _ => true
  | .testRmReg _ rm _ => rm.wf
  | .testRmImm rm _ => rm.wf
  | .testAccImm _ => true
  | .orRmReg _ _ rm _ => rm.wf
  | .orRmImm rm _ => rm.wf
  | .orAccImm _ => true
  | .xorRmReg _ _ rm _ => rm.wf
  | .xorRmImm rm _ => rm.wf
  | .xorAccImm _ => true
  | .notRm _ rm => rm.wf
  | .rolRm1 _ rm => rm.wf
  | .rolRmCl _ rm => rm.wf
  | .rolRmImm _ rm _ => rm.wf
  | .rorRm1 _ rm => rm.wf
  | .rorRmCl _ rm => rm.wf
  | .rorRmImm _ rm _ => rm.wf
  | .rclRm1 _ rm => rm.wf
  | .rclRmCl _ rm => rm.wf
  | .rclRmImm _ rm _ => rm.wf
  | .rcrRm1 _ rm => rm.wf
  | .rcrRmCl _ rm => rm.wf
  | .rcrRmImm _ rm _ => rm.wf
  | .shlRm1 _ rm => rm.wf
  | .shlRmCl _ rm => rm.wf
  | .shlRmImm _ rm _ => rm.wf
  | .shrRm1 _ rm => rm.wf
  | .shrRmCl _ rm => rm.wf
  | .shrRmImm _ rm _ => rm.wf
  | .sarRm1 _ rm => rm.wf
  | .sarRmCl _ rm => rm.wf
  | .sarRmImm _ rm _ => rm.wf
  | .movs _ => true
  | .cmps _ => true
  | .scas _ => true
  | .lods _ => true
  | .stos _ => true
  | .ins _ => true
  | .outs _ => true
  | .rep => true
  | .repne => true
  | .jmpShort _ => true
  | .jmpNear _ => true
  | .jmpRm rm => rm.wf
  | .jmpFar _ _ => true
  | .jmpFarMem m => m.wf
  | .callNear _ => true
  | .callRm rm => rm.wf
  | .callFar _ _ => true
  | .callFarMem m => m.wf
  | .jo _ => true
  | .jno _ => true
  | .jb _ => true
  | .jnb _ => true
  | .je _ => true
  | .jne _ => true
  | .jbe _ => true
  | .jnbe _ => true
  | .js _ => true
  | .jns _ => true
  | .jp _ => true
  | .jnp _ => true
  | .jl _ => true
  | .jnl _ => true
  | .jle _ => true
  | .jnle _ => true
  | .loop _ => true
  | .loopz _ => true
  | .loopnz _ => true
  | .jcxz _ => true
  | .retNear => true
  | .retNearImm _ => true
  | .retFar => true
  | .retFarImm _ => true
  | .enter _ _ => true
  | .leave => true
  | .bound _ m => m.wf
  | .intN _ => true
  | .int3 => true
  | .into => true
  | .iret => true
  | .clc => true
  | .cmc => true
  | .stc => true
  | .cld => true
  | .std => true
  | .cli => true
  | .sti => true
  | .hlt => true
  | .lock => true
  | .wait => true
  | .esc _ _ rm => rm.wf
  | .clts => true
  | .segOverride _ => true
  | .lgdt m => m.wf
  | .sgdt m => m.wf
  | .lidt m => m.wf
  | .sidt m => m.wf
  | .lldt rm => rm.wf
  | .sldt rm => rm.wf
  | .ltr rm => rm.wf
  | .str rm => rm.wf
  | .lmsw rm => rm.wf
  | .smsw rm => rm.wf
  | .verr rm => rm.wf
  | .verw rm => rm.wf
  | .lar _ rm => rm.wf
  | .lsl _ rm => rm.wf
  | .arpl rm _ => rm.wf
  | .undefined u => u.wf

end Sys2Proof
end

