-- ==== Sys2Proof/Decode.lean ====
section
/-! DEFINITION. The decoder, total on any bytes, written from the opcode map of 30_encoding.md R168, and after it the
encoder, written from the same encodings. -/

namespace Sys2Proof

/-- What the decoder reads from a byte sequence: an instruction and the bytes after it; that more bytes are needed;
or AAM or AAD with a second byte other than 0x0A, which 93_implementation_defined.md U7 leaves unspecified. -/
inductive Decoded where
  | ok (i : Instr) (rest : List Byte)
  | needMore
  | badBase
  deriving DecidableEq, Repr

/-- What follows a mod reg r/m byte whose reg field is known (30_encoding.md R150): nothing defined, an operand, an
operand that must be memory, or an operand and an immediate. -/
inductive Operand where
  | undefined
  | rm (k : Rm → Instr)
  | mem (k : MemOp → Instr)
  | rmImm8 (k : Rm → Byte → Instr)
  | rmImm16 (k : Rm → Word → Instr)

/-- What follows the opcode byte (30_encoding.md R150, R162). -/
inductive Format where
  | bare (i : Instr)
  | imm8 (k : Byte → Instr)
  | imm16 (k : Word → Instr)
  | imm16imm8 (k : Word → Byte → Instr)
  | far (k : Word → Word → Instr)
  | baseTen (i : Instr)
  | modrm (k : Reg → Operand)
  | escape0F

/-- The memory operand after a mod reg r/m byte with `mod` other than 11 (30_encoding.md R155 to R157). -/
def decodeMem (mod : BitVec 2) (rm : Reg) (bs : List Byte) : Option (MemOp × List Byte) :=
  if mod = 0#2 then
    if rm = 6#3 then
      match bs with
      | low :: high :: rest => some (.direct (concatBytes high low), rest)
      | _ => none
    else some (.base rm, bs)
  else if mod = 1#2 then
    match bs with
    | low :: rest => some (.base8 rm low, rest)
    | _ => none
  else
    match bs with
    | low :: high :: rest => some (.base16 rm (concatBytes high low), rest)
    | _ => none

/-- The r/m operand (30_encoding.md R155). -/
def decodeRm (mod : BitVec 2) (rm : Reg) (bs : List Byte) : Option (Rm × List Byte) :=
  if mod = 3#2 then some (.reg rm, bs)
  else (decodeMem mod rm bs).map fun p => (.mem p.1, p.2)

/-- The displacement and the immediate after a mod reg r/m byte: the displacement comes first (30_encoding.md R150).
`u` is the undefined instruction this byte would make. -/
def decodeOperand (o : Operand) (u : Instr) (b : Byte) (bs : List Byte) : Decoded :=
  match o with
  | .undefined => .ok u bs
  | .rm k =>
    match decodeRm (modField b) (rmField b) bs with
    | some (rm, rest) => .ok (k rm) rest
    | none => .needMore
  | .mem k =>
    if modField b = 3#2 then .ok u bs
    else
      match decodeMem (modField b) (rmField b) bs with
      | some (m, rest) => .ok (k m) rest
      | none => .needMore
  | .rmImm8 k =>
    match decodeRm (modField b) (rmField b) bs with
    | some (rm, v :: rest) => .ok (k rm v) rest
    | _ => .needMore
  | .rmImm16 k =>
    match decodeRm (modField b) (rmField b) bs with
    | some (rm, low :: high :: rest) => .ok (k rm (concatBytes high low)) rest
    | _ => .needMore

/-- The first six columns of an arithmetic row of the map: r/m with reg, and immediate with accumulator
(30_encoding.md R152, R168). -/
def aluFormat (rmReg : Width → Dir → Rm → Reg → Instr) (accImm : Imm → Instr) (column : Nat) : Format :=
  match column with
  | 0 => .modrm fun r => .rm fun rm => rmReg .byte .toRm rm r
  | 1 => .modrm fun r => .rm fun rm => rmReg .word .toRm rm r
  | 2 => .modrm fun r => .rm fun rm => rmReg .byte .toReg rm r
  | 3 => .modrm fun r => .rm fun rm => rmReg .word .toReg rm r
  | 4 => .imm8 fun v => accImm (.byte v)
  | _ => .imm16 fun v => accImm (.word v)

/-- The Immed group of 30_encoding.md R166. -/
def immedGroup (reg : Reg) (rm : Rm) (i : AluImm) : Instr :=
  match reg.toNat with
  | 0 => .addRmImm rm i
  | 1 => .orRmImm rm i
  | 2 => .adcRmImm rm i
  | 3 => .sbbRmImm rm i
  | 4 => .andRmImm rm i
  | 5 => .subRmImm rm i
  | 6 => .xorRmImm rm i
  | _ => .cmpRmImm rm i

/-- The Shift group by 1 (30_encoding.md R166, 42_logic.md R295). -/
def shiftGroup1 (w : Width) (reg : Reg) : Operand :=
  match reg.toNat with
  | 0 => .rm (.rolRm1 w)
  | 1 => .rm (.rorRm1 w)
  | 2 => .rm (.rclRm1 w)
  | 3 => .rm (.rcrRm1 w)
  | 4 => .rm (.shlRm1 w)
  | 5 => .rm (.shrRm1 w)
  | 6 => .undefined
  | _ => .rm (.sarRm1 w)

/-- The Shift group by CL (30_encoding.md R166, 42_logic.md R295). -/
def shiftGroupCl (w : Width) (reg : Reg) : Operand :=
  match reg.toNat with
  | 0 => .rm (.rolRmCl w)
  | 1 => .rm (.rorRmCl w)
  | 2 => .rm (.rclRmCl w)
  | 3 => .rm (.rcrRmCl w)
  | 4 => .rm (.shlRmCl w)
  | 5 => .rm (.shrRmCl w)
  | 6 => .undefined
  | _ => .rm (.sarRmCl w)

/-- The Shift group by an immediate count (30_encoding.md R166, 42_logic.md R295). -/
def shiftGroupImm (w : Width) (reg : Reg) : Operand :=
  match reg.toNat with
  | 0 => .rmImm8 (.rolRmImm w)
  | 1 => .rmImm8 (.rorRmImm w)
  | 2 => .rmImm8 (.rclRmImm w)
  | 3 => .rmImm8 (.rcrRmImm w)
  | 4 => .rmImm8 (.shlRmImm w)
  | 5 => .rmImm8 (.shrRmImm w)
  | 6 => .undefined
  | _ => .rmImm8 (.sarRmImm w)

/-- Grp 1 (30_encoding.md R166). -/
def group1 (w : Width) (reg : Reg) : Operand :=
  match reg.toNat with
  | 0 =>
    match w with
    | .byte => .rmImm8 fun rm v => .testRmImm rm (.byte v)
    | .word => .rmImm16 fun rm v => .testRmImm rm (.word v)
  | 1 => .undefined
  | 2 => .rm (.notRm w)
  | 3 => .rm (.negRm w)
  | 4 => .rm (.mulRm w)
  | 5 => .rm (.imulRm w)
  | 6 => .rm (.divRm w)
  | _ => .rm (.idivRm w)

/-- Grp 2 under 0xFE (30_encoding.md R166). -/
def group2Byte (reg : Reg) : Operand :=
  match reg.toNat with
  | 0 => .rm (.incRm .byte)
  | 1 => .rm (.decRm .byte)
  | _ => .undefined

/-- Grp 2 under 0xFF (30_encoding.md R166). -/
def group2Word (reg : Reg) : Operand :=
  match reg.toNat with
  | 0 => .rm (.incRm .word)
  | 1 => .rm (.decRm .word)
  | 2 => .rm .callRm
  | 3 => .mem .callFarMem
  | 4 => .rm .jmpRm
  | 5 => .mem .jmpFarMem
  | 6 => .rm .pushRm
  | _ => .undefined

/-- The group PVAM 0 (30_encoding.md R165). -/
def pvam0 (reg : Reg) : Operand :=
  match reg.toNat with
  | 0 => .rm .sldt
  | 1 => .rm .str
  | 2 => .rm .lldt
  | 3 => .rm .ltr
  | 4 => .rm .verr
  | 5 => .rm .verw
  | _ => .undefined

/-- The group PVAM 1 (30_encoding.md R165). -/
def pvam1 (reg : Reg) : Operand :=
  match reg.toNat with
  | 0 => .mem .sgdt
  | 1 => .mem .sidt
  | 2 => .mem .lgdt
  | 3 => .mem .lidt
  | 4 => .rm .smsw
  | 5 => .undefined
  | 6 => .rm .lmsw
  | _ => .undefined

/-- The segment register field of 0x8C and 0x8E (30_encoding.md R154): values 100 to 111 are undefined. -/
def sregOfField (reg : Reg) : Option SReg :=
  match reg.toNat with
  | 0 => some .es
  | 1 => some .cs
  | 2 => some .ss
  | 3 => some .ds
  | _ => none

/-- 0x8C: MOV r/m, sreg (40_data_transfer.md R208). -/
def movFromSreg (reg : Reg) : Operand :=
  match sregOfField reg with
  | some sr => .rm fun rm => .movRmSreg rm sr
  | none => .undefined

/-- 0x8E: MOV sreg, r/m (40_data_transfer.md R207); CS is no destination (30_encoding.md R176). -/
def movToSreg (reg : Reg) : Operand :=
  match sregOfField reg with
  | some .cs => .undefined
  | some sr => .rm fun rm => .movSregRm sr rm
  | none => .undefined

/-- The opcodes whose only defined reg field is 000 (30_encoding.md R166). -/
def onlyReg0 (o : Operand) (reg : Reg) : Operand := if reg = 0#3 then o else .undefined

/-- Row 0 of the one-byte opcode map (30_encoding.md R168). -/
def row0 (column : Nat) : Format :=
  match column with
  | 6 => .bare (.pushSreg .es)
  | 7 => .bare (.popSreg .es)
  | 8 => aluFormat .orRmReg .orAccImm 0
  | 9 => aluFormat .orRmReg .orAccImm 1
  | 10 => aluFormat .orRmReg .orAccImm 2
  | 11 => aluFormat .orRmReg .orAccImm 3
  | 12 => aluFormat .orRmReg .orAccImm 4
  | 13 => aluFormat .orRmReg .orAccImm 5
  | 14 => .bare (.pushSreg .cs)
  | 15 => .escape0F
  | n => aluFormat .addRmReg .addAccImm n

/-- Row 1 of the one-byte opcode map (30_encoding.md R168). -/
def row1 (column : Nat) : Format :=
  match column with
  | 6 => .bare (.pushSreg .ss)
  | 7 => .bare (.popSreg .ss)
  | 8 => aluFormat .sbbRmReg .sbbAccImm 0
  | 9 => aluFormat .sbbRmReg .sbbAccImm 1
  | 10 => aluFormat .sbbRmReg .sbbAccImm 2
  | 11 => aluFormat .sbbRmReg .sbbAccImm 3
  | 12 => aluFormat .sbbRmReg .sbbAccImm 4
  | 13 => aluFormat .sbbRmReg .sbbAccImm 5
  | 14 => .bare (.pushSreg .ds)
  | 15 => .bare (.popSreg .ds)
  | n => aluFormat .adcRmReg .adcAccImm n

/-- Row 2 of the one-byte opcode map (30_encoding.md R168). -/
def row2 (column : Nat) : Format :=
  match column with
  | 6 => .bare (.segOverride .es)
  | 7 => .bare .daa
  | 8 => aluFormat .subRmReg .subAccImm 0
  | 9 => aluFormat .subRmReg .subAccImm 1
  | 10 => aluFormat .subRmReg .subAccImm 2
  | 11 => aluFormat .subRmReg .subAccImm 3
  | 12 => aluFormat .subRmReg .subAccImm 4
  | 13 => aluFormat .subRmReg .subAccImm 5
  | 14 => .bare (.segOverride .cs)
  | 15 => .bare .das
  | n => aluFormat .andRmReg .andAccImm n

/-- Row 3 of the one-byte opcode map (30_encoding.md R168). -/
def row3 (column : Nat) : Format :=
  match column with
  | 6 => .bare (.segOverride .ss)
  | 7 => .bare .aaa
  | 8 => aluFormat .cmpRmReg .cmpAccImm 0
  | 9 => aluFormat .cmpRmReg .cmpAccImm 1
  | 10 => aluFormat .cmpRmReg .cmpAccImm 2
  | 11 => aluFormat .cmpRmReg .cmpAccImm 3
  | 12 => aluFormat .cmpRmReg .cmpAccImm 4
  | 13 => aluFormat .cmpRmReg .cmpAccImm 5
  | 14 => .bare (.segOverride .ds)
  | 15 => .bare .aas
  | n => aluFormat .xorRmReg .xorAccImm n

/-- Row 6 of the one-byte opcode map (30_encoding.md R168). -/
def row6 (op : Byte) (column : Nat) : Format :=
  match column with
  | 0 => .bare .pusha
  | 1 => .bare .popa
  | 2 => .modrm fun r => .mem fun m => .bound r m
  | 3 => .modrm fun r => .rm fun rm => .arpl rm r
  | 8 => .imm16 fun v => .pushImm (.word v)
  | 9 => .modrm fun r => .rmImm16 fun rm v => .imulRegRmImm r rm (.word v)
  | 10 => .imm8 fun v => .pushImm (.sx v)
  | 11 => .modrm fun r => .rmImm8 fun rm v => .imulRegRmImm r rm (.sx v)
  | 12 => .bare (.ins .byte)
  | 13 => .bare (.ins .word)
  | 14 => .bare (.outs .byte)
  | 15 => .bare (.outs .word)
  | _ => .bare (.undefined (.oneByte op))

/-- Row 7 of the one-byte opcode map, the conditional jumps (30_encoding.md R168). -/
def row7 (column : Nat) : Format :=
  match column with
  | 0 => .imm8 .jo
  | 1 => .imm8 .jno
  | 2 => .imm8 .jb
  | 3 => .imm8 .jnb
  | 4 => .imm8 .je
  | 5 => .imm8 .jne
  | 6 => .imm8 .jbe
  | 7 => .imm8 .jnbe
  | 8 => .imm8 .js
  | 9 => .imm8 .jns
  | 10 => .imm8 .jp
  | 11 => .imm8 .jnp
  | 12 => .imm8 .jl
  | 13 => .imm8 .jnl
  | 14 => .imm8 .jle
  | _ => .imm8 .jnle

/-- Row 8 of the one-byte opcode map (30_encoding.md R168). -/
def row8 (column : Nat) : Format :=
  match column with
  | 0 => .modrm fun reg => .rmImm8 fun rm v => immedGroup reg rm (.byte false v)
  | 1 => .modrm fun reg => .rmImm16 fun rm v => immedGroup reg rm (.word v)
  | 2 => .modrm fun reg => .rmImm8 fun rm v => immedGroup reg rm (.byte true v)
  | 3 => .modrm fun reg => .rmImm8 fun rm v => immedGroup reg rm (.sx v)
  | 4 => .modrm fun r => .rm fun rm => .testRmReg .byte rm r
  | 5 => .modrm fun r => .rm fun rm => .testRmReg .word rm r
  | 6 => .modrm fun r => .rm fun rm => .xchgRmReg .byte rm r
  | 7 => .modrm fun r => .rm fun rm => .xchgRmReg .word rm r
  | 8 => .modrm fun r => .rm fun rm => .movRmReg .byte rm r
  | 9 => .modrm fun r => .rm fun rm => .movRmReg .word rm r
  | 10 => .modrm fun r => .rm fun rm => .movRegRm .byte r rm
  | 11 => .modrm fun r => .rm fun rm => .movRegRm .word r rm
  | 12 => .modrm movFromSreg
  | 13 => .modrm fun r => .mem fun m => .lea r m
  | 14 => .modrm movToSreg
  | _ => .modrm (onlyReg0 (.rm .popRm))

/-- Row 9 of the one-byte opcode map (30_encoding.md R168, R169). -/
def row9 (reg : Reg) (column : Nat) : Format :=
  match column with
  | 0 => .bare .nop
  | 8 => .bare .cbw
  | 9 => .bare .cwd
  | 10 => .far fun off sel => .callFar off sel
  | 11 => .bare .wait
  | 12 => .bare .pushf
  | 13 => .bare .popf
  | 14 => .bare .sahf
  | 15 => .bare .lahf
  | _ => .bare (.xchgAx reg)

/-- Row A of the one-byte opcode map (30_encoding.md R168). -/
def rowA (column : Nat) : Format :=
  match column with
  | 0 => .imm16 (.movAccMem .byte)
  | 1 => .imm16 (.movAccMem .word)
  | 2 => .imm16 (.movMemAcc .byte)
  | 3 => .imm16 (.movMemAcc .word)
  | 4 => .bare (.movs .byte)
  | 5 => .bare (.movs .word)
  | 6 => .bare (.cmps .byte)
  | 7 => .bare (.cmps .word)
  | 8 => .imm8 fun v => .testAccImm (.byte v)
  | 9 => .imm16 fun v => .testAccImm (.word v)
  | 10 => .bare (.stos .byte)
  | 11 => .bare (.stos .word)
  | 12 => .bare (.lods .byte)
  | 13 => .bare (.lods .word)
  | 14 => .bare (.scas .byte)
  | _ => .bare (.scas .word)

/-- Row C of the one-byte opcode map (30_encoding.md R168). -/
def rowC (column : Nat) : Format :=
  match column with
  | 0 => .modrm (shiftGroupImm .byte)
  | 1 => .modrm (shiftGroupImm .word)
  | 2 => .imm16 .retNearImm
  | 3 => .bare .retNear
  | 4 => .modrm fun r => .mem fun m => .les r m
  | 5 => .modrm fun r => .mem fun m => .lds r m
  | 6 => .modrm (onlyReg0 (.rmImm8 fun rm v => .movRmImm rm (.byte v)))
  | 7 => .modrm (onlyReg0 (.rmImm16 fun rm v => .movRmImm rm (.word v)))
  | 8 => .imm16imm8 fun size level => .enter size level
  | 9 => .bare .leave
  | 10 => .imm16 .retFarImm
  | 11 => .bare .retFar
  | 12 => .bare .int3
  | 13 => .imm8 .intN
  | 14 => .bare .into
  | _ => .bare .iret

/-- Row D of the one-byte opcode map (30_encoding.md R168). -/
def rowD (op : Byte) (ttt : BitVec 3) (column : Nat) : Format :=
  match column with
  | 0 => .modrm (shiftGroup1 .byte)
  | 1 => .modrm (shiftGroup1 .word)
  | 2 => .modrm (shiftGroupCl .byte)
  | 3 => .modrm (shiftGroupCl .word)
  | 4 => .baseTen .aam
  | 5 => .baseTen .aad
  | 6 => .bare (.undefined (.oneByte op))
  | 7 => .bare .xlat
  | _ => .modrm fun lll => .rm fun rm => .esc ttt lll rm

/-- Row E of the one-byte opcode map (30_encoding.md R168). -/
def rowE (column : Nat) : Format :=
  match column with
  | 0 => .imm8 .loopnz
  | 1 => .imm8 .loopz
  | 2 => .imm8 .loop
  | 3 => .imm8 .jcxz
  | 4 => .imm8 (.inPort .byte)
  | 5 => .imm8 (.inPort .word)
  | 6 => .imm8 (.outPort .byte)
  | 7 => .imm8 (.outPort .word)
  | 8 => .imm16 .callNear
  | 9 => .imm16 .jmpNear
  | 10 => .far fun off sel => .jmpFar off sel
  | 11 => .imm8 .jmpShort
  | 12 => .bare (.inDx .byte)
  | 13 => .bare (.inDx .word)
  | 14 => .bare (.outDx .byte)
  | _ => .bare (.outDx .word)

/-- Row F of the one-byte opcode map (30_encoding.md R168). -/
def rowF (op : Byte) (column : Nat) : Format :=
  match column with
  | 0 => .bare .lock
  | 2 => .bare .repne
  | 3 => .bare .rep
  | 4 => .bare .hlt
  | 5 => .bare .cmc
  | 6 => .modrm (group1 .byte)
  | 7 => .modrm (group1 .word)
  | 8 => .bare .clc
  | 9 => .bare .stc
  | 10 => .bare .cli
  | 11 => .bare .sti
  | 12 => .bare .cld
  | 13 => .bare .std
  | 14 => .modrm group2Byte
  | 15 => .modrm group2Word
  | _ => .bare (.undefined (.oneByte op))

/-- The one-byte opcode map of 30_encoding.md R168, by its sixteen rows. -/
def opcodeFormat (b : Byte) : Format :=
  let column : Nat := (b.extractLsb' 0 4).toNat
  let reg : Reg := b.extractLsb' 0 3
  match (b.extractLsb' 4 4).toNat with
  | 0 => row0 column
  | 1 => row1 column
  | 2 => row2 column
  | 3 => row3 column
  | 4 => if column < 8 then .bare (.incReg reg) else .bare (.decReg reg)
  | 5 => if column < 8 then .bare (.pushReg reg) else .bare (.popReg reg)
  | 6 => row6 b column
  | 7 => row7 column
  | 8 => row8 column
  | 9 => row9 reg column
  | 10 => rowA column
  | 11 =>
    if column < 8 then .imm8 fun v => .movRegImm reg (.byte v)
    else .imm16 fun v => .movRegImm reg (.word v)
  | 12 => rowC column
  | 13 => rowD b reg column
  | 14 => rowE column
  | _ => rowF b column

/-- The second opcode byte after 0x0F (30_encoding.md R165). -/
def page0FFormat (op2 : Byte) : Format :=
  match op2.toNat with
  | 0 => .modrm pvam0
  | 1 => .modrm pvam1
  | 2 => .modrm fun r => .rm fun rm => .lar r rm
  | 3 => .modrm fun r => .rm fun rm => .lsl r rm
  | 6 => .bare .clts
  | _ => .bare (.undefined (.page0F op2))

/-- The bytes after the opcode, by the opcode's format. `u` names the undefined instruction a mod reg r/m byte makes. -/
def decodeFormat (f : Format) (u : Byte → Undefined) (bs : List Byte) : Decoded :=
  match f with
  | .bare i => .ok i bs
  | .imm8 k =>
    match bs with
    | v :: rest => .ok (k v) rest
    | _ => .needMore
  | .imm16 k =>
    match bs with
    | low :: high :: rest => .ok (k (concatBytes high low)) rest
    | _ => .needMore
  | .imm16imm8 k =>
    match bs with
    | low :: high :: v :: rest => .ok (k (concatBytes high low) v) rest
    | _ => .needMore
  | .far k =>
    match bs with
    | ol :: oh :: sl :: sh :: rest => .ok (k (concatBytes oh ol) (concatBytes sh sl)) rest
    | _ => .needMore
  | .baseTen i =>
    match bs with
    | v :: rest => if v = 0x0A#8 then .ok i rest else .badBase
    | _ => .needMore
  | .modrm k =>
    match bs with
    | b :: rest => decodeOperand (k (regField b)) (.undefined (u b)) b rest
    | _ => .needMore
  | .escape0F => .needMore

/-- The decoder of 30_encoding.md R170, steps 2 to 7, on one prefix byte or one instruction without prefixes. -/
def decode (bs : List Byte) : Decoded :=
  match bs with
  | [] => .needMore
  | b :: rest =>
    match opcodeFormat b with
    | .escape0F =>
      match rest with
      | [] => .needMore
      | b2 :: rest2 => decodeFormat (page0FFormat b2) (fun m => .group0F b2 m) rest2
    | f => decodeFormat f (fun m => .group b m) rest

/-- The bytes of `w` numbered as the opcode table numbers them, the first byte fetched on top (`fixed` and `match` of
the table, 30_encoding.md R179). Log entry 7. -/
def tableBytes (count w : Nat) : List Byte :=
  match count with
  | 0 => []
  | k + 1 => BitVec.ofNat 8 (w >>> (8 * k)) :: tableBytes k w

/-- The instruction the decoder reads from an opcode-table word of `nbits` bits, followed by zero bytes up to the
longest instruction. -/
def decodeTableWord (nbits w : Nat) : Option Instr :=
  match decode (tableBytes (nbits / 8) w ++ List.replicate (Config.maxInsnLen - nbits / 8) 0#8) with
  | .ok i _ => some i
  | .needMore => none
  | .badBase => none

/-! The encoder. -/

/-- A mod reg r/m byte (30_encoding.md R155). -/
def modrmByte (mod : BitVec 2) (reg rm : Reg) : Byte := mod ++ reg ++ rm

/-- The mod reg r/m byte and the displacement of a memory operand (30_encoding.md R155 to R157). -/
def MemOp.encode (reg : Reg) : MemOp → List Byte
  | .base rm => [modrmByte 0 reg rm]
  | .base8 rm disp => [modrmByte 1 reg rm, disp]
  | .base16 rm disp => [modrmByte 2 reg rm, lowByte disp, highByte disp]
  | .direct disp => [modrmByte 0 reg 6, lowByte disp, highByte disp]

/-- The mod reg r/m byte and the displacement of an operand (30_encoding.md R155). -/
def Rm.encode (reg : Reg) : Rm → List Byte
  | .reg r => [modrmByte 3 reg r]
  | .mem m => m.encode reg

/-- The two bytes of a word, low byte first (20_memory.md R71). -/
def wordBytes (v : Word) : List Byte := [lowByte v, highByte v]

/-- The `w` bit of an opcode added to its base (30_encoding.md R152). -/
def withW (op : Byte) : Width → Byte
  | .byte => op
  | .word => op + 1

/-- The `w` and `d` bits of an opcode added to its base (30_encoding.md R152). -/
def withWD (op : Byte) (w : Width) : Dir → Byte
  | .toRm => withW op w
  | .toReg => withW (op + 2) w

/-- The bytes of an immediate (30_encoding.md R162). -/
def Imm.encode : Imm → List Byte
  | .byte v => [v]
  | .word v => wordBytes v

/-- An opcode whose `w` bit says the width of the immediate, and the immediate (30_encoding.md R162). -/
def encodeAccImm (op : Byte) (i : Imm) : List Byte :=
  match i with
  | .byte v => [op, v]
  | .word v => (op + 1) :: wordBytes v

/-- An instruction of the Immed group (30_encoding.md R152, R166). -/
def encodeImmed (reg : Reg) (rm : Rm) : AluImm → List Byte
  | .byte false v => 0x80 :: (rm.encode reg ++ [v])
  | .byte true v => 0x82 :: (rm.encode reg ++ [v])
  | .word v => 0x81 :: (rm.encode reg ++ wordBytes v)
  | .sx v => 0x83 :: (rm.encode reg ++ [v])

/-- The segment register field (30_encoding.md R154). -/
def SReg.field : SReg → Reg
  | .es => 0
  | .cs => 1
  | .ss => 2
  | .ds => 3

/-- An opcode with the segment register field in bits 4 to 3 (30_encoding.md R154). -/
def withSreg (op : Byte) (sr : SReg) : Byte := op + (sr.field.setWidth 8 <<< 3)

/-- An opcode with a register field in bits 2 to 0 (30_encoding.md R153). -/
def withReg (op : Byte) (r : BitVec 3) : Byte := op + r.setWidth 8

/-- The bytes of an undefined encoding up to the byte that makes it undefined. -/
def Undefined.encode : Undefined → List Byte
  | .oneByte op => [op]
  | .page0F op2 => [0x0F, op2]
  | .group op modrm => [op, modrm]
  | .group0F op2 modrm => [0x0F, op2, modrm]

/-- The bytes of an instruction, each from the encoding its rule gives. -/
def encode : Instr → List Byte
  | .movRmReg w rm r => withW 0x88 w :: rm.encode r
  | .movRegRm w r rm => withW 0x8A w :: rm.encode r
  | .movRmImm rm (.byte v) => 0xC6 :: (rm.encode 0 ++ [v])
  | .movRmImm rm (.word v) => 0xC7 :: (rm.encode 0 ++ wordBytes v)
  | .movRegImm r (.byte v) => [withReg 0xB0 r, v]
  | .movRegImm r (.word v) => withReg 0xB8 r :: wordBytes v
  | .movAccMem w off => withW 0xA0 w :: wordBytes off
  | .movMemAcc w off => withW 0xA2 w :: wordBytes off
  | .movSregRm sr rm => 0x8E :: rm.encode sr.field
  | .movRmSreg rm sr => 0x8C :: rm.encode sr.field
  | .pushRm rm => 0xFF :: rm.encode 6
  | .pushReg r => [withReg 0x50 r]
  | .pushSreg sr => [withSreg 0x06 sr]
  | .pushImm (.word v) => 0x68 :: wordBytes v
  | .pushImm (.sx v) => [0x6A, v]
  | .pusha => [0x60]
  | .popRm rm => 0x8F :: rm.encode 0
  | .popReg r => [withReg 0x58 r]
  | .popSreg sr => [withSreg 0x07 sr]
  | .popa => [0x61]
  | .xchgRmReg w rm r => withW 0x86 w :: rm.encode r
  | .xchgAx r => [withReg 0x90 r]
  | .nop => [0x90]
  | .inPort w port => [withW 0xE4 w, port]
  | .inDx w => [withW 0xEC w]
  | .outPort w port => [withW 0xE6 w, port]
  | .outDx w => [withW 0xEE w]
  | .xlat => [0xD7]
  | .lea r m => 0x8D :: m.encode r
  | .lds r m => 0xC5 :: m.encode r
  | .les r m => 0xC4 :: m.encode r
  | .lahf => [0x9F]
  | .sahf => [0x9E]
  | .pushf => [0x9C]
  | .popf => [0x9D]
  | .addRmReg w d rm r => withWD 0x00 w d :: rm.encode r
  | .addRmImm rm i => encodeImmed 0 rm i
  | .addAccImm i => encodeAccImm 0x04 i
  | .adcRmReg w d rm r => withWD 0x10 w d :: rm.encode r
  | .adcRmImm rm i => encodeImmed 2 rm i
  | .adcAccImm i => encodeAccImm 0x14 i
  | .incRm w rm => withW 0xFE w :: rm.encode 0
  | .incReg r => [withReg 0x40 r]
  | .subRmReg w d rm r => withWD 0x28 w d :: rm.encode r
  | .subRmImm rm i => encodeImmed 5 rm i
  | .subAccImm i => encodeAccImm 0x2C i
  | .sbbRmReg w d rm r => withWD 0x18 w d :: rm.encode r
  | .sbbRmImm rm i => encodeImmed 3 rm i
  | .sbbAccImm i => encodeAccImm 0x1C i
  | .decRm w rm => withW 0xFE w :: rm.encode 1
  | .decReg r => [withReg 0x48 r]
  | .cmpRmReg w d rm r => withWD 0x38 w d :: rm.encode r
  | .cmpRmImm rm i => encodeImmed 7 rm i
  | .cmpAccImm i => encodeAccImm 0x3C i
  | .negRm w rm => withW 0xF6 w :: rm.encode 3
  | .aaa => [0x37]
  | .daa => [0x27]
  | .aas => [0x3F]
  | .das => [0x2F]
  | .mulRm w rm => withW 0xF6 w :: rm.encode 4
  | .imulRm w rm => withW 0xF6 w :: rm.encode 5
  | .imulRegRmImm r rm (.word v) => 0x69 :: (rm.encode r ++ wordBytes v)
  | .imulRegRmImm r rm (.sx v) => 0x6B :: (rm.encode r ++ [v])
  | .divRm w rm => withW 0xF6 w :: rm.encode 6
  | .idivRm w rm => withW 0xF6 w :: rm.encode 7
  | .aam => [0xD4, 0x0A]
  | .aad => [0xD5, 0x0A]
  | .cbw => [0x98]
  | .cwd => [0x99]
  | .andRmReg w d rm r => withWD 0x20 w d :: rm.encode r
  | .andRmImm rm i => encodeImmed 4 rm i
  | .andAccImm i => encodeAccImm 0x24 i
  | .testRmReg w rm r => withW 0x84 w :: rm.encode r
  | .testRmImm rm (.byte v) => 0xF6 :: (rm.encode 0 ++ [v])
  | .testRmImm rm (.word v) => 0xF7 :: (rm.encode 0 ++ wordBytes v)
  | .testAccImm i => encodeAccImm 0xA8 i
  | .orRmReg w d rm r => withWD 0x08 w d :: rm.encode r
  | .orRmImm rm i => encodeImmed 1 rm i
  | .orAccImm i => encodeAccImm 0x0C i
  | .xorRmReg w d rm r => withWD 0x30 w d :: rm.encode r
  | .xorRmImm rm i => encodeImmed 6 rm i
  | .xorAccImm i => encodeAccImm 0x34 i
  | .notRm w rm => withW 0xF6 w :: rm.encode 2
  | .rolRm1 w rm => withW 0xD0 w :: rm.encode 0
  | .rolRmCl w rm => withW 0xD2 w :: rm.encode 0
  | .rolRmImm w rm count => withW 0xC0 w :: (rm.encode 0 ++ [count])
  | .rorRm1 w rm => withW 0xD0 w :: rm.encode 1
  | .rorRmCl w rm => withW 0xD2 w :: rm.encode 1
  | .rorRmImm w rm count => withW 0xC0 w :: (rm.encode 1 ++ [count])
  | .rclRm1 w rm => withW 0xD0 w :: rm.encode 2
  | .rclRmCl w rm => withW 0xD2 w :: rm.encode 2
  | .rclRmImm w rm count => withW 0xC0 w :: (rm.encode 2 ++ [count])
  | .rcrRm1 w rm => withW 0xD0 w :: rm.encode 3
  | .rcrRmCl w rm => withW 0xD2 w :: rm.encode 3
  | .rcrRmImm w rm count => withW 0xC0 w :: (rm.encode 3 ++ [count])
  | .shlRm1 w rm => withW 0xD0 w :: rm.encode 4
  | .shlRmCl w rm => withW 0xD2 w :: rm.encode 4
  | .shlRmImm w rm count => withW 0xC0 w :: (rm.encode 4 ++ [count])
  | .shrRm1 w rm => withW 0xD0 w :: rm.encode 5
  | .shrRmCl w rm => withW 0xD2 w :: rm.encode 5
  | .shrRmImm w rm count => withW 0xC0 w :: (rm.encode 5 ++ [count])
  | .sarRm1 w rm => withW 0xD0 w :: rm.encode 7
  | .sarRmCl w rm => withW 0xD2 w :: rm.encode 7
  | .sarRmImm w rm count => withW 0xC0 w :: (rm.encode 7 ++ [count])
  | .movs w => [withW 0xA4 w]
  | .cmps w => [withW 0xA6 w]
  | .scas w => [withW 0xAE w]
  | .lods w => [withW 0xAC w]
  | .stos w => [withW 0xAA w]
  | .ins w => [withW 0x6C w]
  | .outs w => [withW 0x6E w]
  | .rep => [0xF3]
  | .repne => [0xF2]
  | .jmpShort disp => [0xEB, disp]
  | .jmpNear disp => 0xE9 :: wordBytes disp
  | .jmpRm rm => 0xFF :: rm.encode 4
  | .jmpFar off sel => 0xEA :: (wordBytes off ++ wordBytes sel)
  | .jmpFarMem m => 0xFF :: m.encode 5
  | .callNear disp => 0xE8 :: wordBytes disp
  | .callRm rm => 0xFF :: rm.encode 2
  | .callFar off sel => 0x9A :: (wordBytes off ++ wordBytes sel)
  | .callFarMem m => 0xFF :: m.encode 3
  | .jo disp => [0x70, disp]
  | .jno disp => [0x71, disp]
  | .jb disp => [0x72, disp]
  | .jnb disp => [0x73, disp]
  | .je disp => [0x74, disp]
  | .jne disp => [0x75, disp]
  | .jbe disp => [0x76, disp]
  | .jnbe disp => [0x77, disp]
  | .js disp => [0x78, disp]
  | .jns disp => [0x79, disp]
  | .jp disp => [0x7A, disp]
  | .jnp disp => [0x7B, disp]
  | .jl disp => [0x7C, disp]
  | .jnl disp => [0x7D, disp]
  | .jle disp => [0x7E, disp]
  | .jnle disp => [0x7F, disp]
  | .loop disp => [0xE2, disp]
  | .loopz disp => [0xE1, disp]
  | .loopnz disp => [0xE0, disp]
  | .jcxz disp => [0xE3, disp]
  | .retNear => [0xC3]
  | .retNearImm n => 0xC2 :: wordBytes n
  | .retFar => [0xCB]
  | .retFarImm n => 0xCA :: wordBytes n
  | .enter size level => 0xC8 :: (wordBytes size ++ [level])
  | .leave => [0xC9]
  | .bound r m => 0x62 :: m.encode r
  | .intN v => [0xCD, v]
  | .int3 => [0xCC]
  | .into => [0xCE]
  | .iret => [0xCF]
  | .clc => [0xF8]
  | .cmc => [0xF5]
  | .stc => [0xF9]
  | .cld => [0xFC]
  | .std => [0xFD]
  | .cli => [0xFA]
  | .sti => [0xFB]
  | .hlt => [0xF4]
  | .lock => [0xF0]
  | .wait => [0x9B]
  | .esc ttt lll rm => withReg 0xD8 ttt :: rm.encode lll
  | .clts => [0x0F, 0x06]
  | .segOverride sr => [withSreg 0x26 sr]
  | .lgdt m => 0x0F :: 0x01 :: m.encode 2
  | .sgdt m => 0x0F :: 0x01 :: m.encode 0
  | .lidt m => 0x0F :: 0x01 :: m.encode 3
  | .sidt m => 0x0F :: 0x01 :: m.encode 1
  | .lldt rm => 0x0F :: 0x00 :: rm.encode 2
  | .sldt rm => 0x0F :: 0x00 :: rm.encode 0
  | .ltr rm => 0x0F :: 0x00 :: rm.encode 3
  | .str rm => 0x0F :: 0x00 :: rm.encode 1
  | .lmsw rm => 0x0F :: 0x01 :: rm.encode 6
  | .smsw rm => 0x0F :: 0x01 :: rm.encode 4
  | .verr rm => 0x0F :: 0x00 :: rm.encode 4
  | .verw rm => 0x0F :: 0x00 :: rm.encode 5
  | .lar r rm => 0x0F :: 0x02 :: rm.encode r
  | .lsl r rm => 0x0F :: 0x03 :: rm.encode r
  | .arpl rm r => 0x63 :: rm.encode r
  | .undefined u => u.encode

end Sys2Proof
end

