-- ==== Sys2Proof/Machine/Fetch.lean ====
section
/-! DEFINITION. Fetching the bytes of an instruction through CS (20_memory.md R85, R141, 30_encoding.md R164, R170). -/

namespace Sys2Proof.Machine

/-- The offset of the last byte of the code segment (20_memory.md R85). -/
def State.codeLimit (s : State) : Nat := if s.msw.pe then s.cs.limit.toNat else 0xFFFF

/-- The byte a fetch answers for a location: any of the bytes it held since the last control transfer, by a free choice
(20_memory.md R141). Log entry 13. -/
def chooseByte (stale : List Host.Cell) (location : Nat) (fresh : Byte) (n : Nat) : Byte :=
  match stale with
  | [] => fresh
  | (k, old) :: rest => if k == location && Config.freeBit n then old else chooseByte rest location fresh (n + 1)

/-- Whether a code byte may have been queued before LMSW set PE (10_state.md R42 (b), 20_memory.md R141). -/
def State.queuedReal (s : State) (off : Word) : Bool :=
  match s.realQueue with
  | none => false
  | some q => q.holds off

/-- `Fetch(off, 1)` (20_memory.md R85). A fetch has a count of its own, apart from the data accesses before and after it
(log entry 3). A byte that may have been queued before LMSW set PE is by a free choice the one at the location of real
mode (R141, 70_reset_and_hazards.md R614; log entry 32). -/
def State.codeByte (s : State) (off : Word) (n : Nat) : Byte :=
  let a := s.cs.base + zeroExtend24 off
  let location := if s.queuedReal off && Config.freeBit (n + s.stale.length) then s.realLocation a else s.physical a
  chooseByte s.stale location (s.byteAt (s.ticks + 1) location) n

/-- How many free choices the fetch of one byte may draw: none where nothing was overwritten and PE not just set. -/
def State.fetchChoices (s : State) : Nat := s.stale.length + (if s.realQueue.isSome then 1 else 0)

/-- Code bytes at increasing offsets. -/
def State.codeBytes (s : State) (off : Word) (n count : Nat) : List Byte :=
  match count with
  | 0 => []
  | k + 1 => s.codeByte off n :: s.codeBytes (off + 1) (n + s.fetchChoices) k

/-- How many bytes may be fetched: up to the longest instruction and up to the end of the segment (10_state.md R25,
30_encoding.md R164). -/
def State.fetchable (s : State) : Nat :=
  if s.ipWrap then 0 else min (Config.maxInsnLen - s.pfx.len) (s.codeLimit + 1 - s.ip.toNat)

/-- The bytes the decoder may see. -/
def State.window (s : State) : List Byte := s.codeBytes s.ip s.free s.fetchable

/-- `cur_ip`: IP, or that of the first prefix byte already read (10_state.md R25). -/
def State.currentIp (s : State) : Word := if s.pfx.len = 0 then s.ip else s.curIp

/-- The state in which an instruction of `len` bytes is executed: IP holds `next_ip`, `trap` holds TF as it was before
the instruction (10_state.md R25, 60_exceptions.md R507). The counts of free values and of fetches go on (log entries 3
and 13). The hold-offs of MOV SS and STI end here, so that they do not last beyond the first iteration of a repeated string
instruction or the first step of a waiting WAIT or ESC (log entry 16). -/
def State.fetched (s : State) (len : Nat) : State :=
  { s with
    ip := s.ip + BitVec.ofNat 16 len
    ipWrap := s.ipWrap || decide (2 ^ 16 ≤ s.ip.toNat + len)
    curIp := s.currentIp
    trap := s.flags.tf
    inhibitAll := false
    inhibitIntr := false
    repeating := none
    free := s.free + s.fetchChoices * Config.maxInsnLen
    ticks := s.ticks + 2 }

/-- The state in which the next iteration of a repeated string instruction is executed, which is not decoded again
(43_string.md R320). -/
def State.resumed (s : State) (r : Repetition) : State :=
  { s with
    ip := r.ip
    ipWrap := r.ipWrap
    pfx := r.pfx
    curIp := s.ip
    trap := s.flags.tf
    inhibitAll := false
    inhibitIntr := false
    repeating := none
    ticks := s.ticks + 1 }

/-- What a fetch comes to: an instruction and the state it is executed in, a byte beyond the end of the segment, an
instruction that is too long, or AAM or AAD with another second byte. -/
inductive Fetched where
  | run (i : Instr) (s : State)
  | overrun (s : State)
  | tooLong
  | badBase
  deriving DecidableEq, Repr

/-- Fetch and decode one prefix byte or one instruction (30_encoding.md R170). Where a byte lies beyond the end of the
segment IP stays, and the counts go on as after any other fetch (log entries 3 and 17). An instruction that only protected mode
has is fetched whole in real mode too, before its exception 6 (log entry 12). -/
def fetch (s : State) : Fetched :=
  match decode s.window with
  | .ok i rest => .run i (s.fetched (s.window.length - rest.length))
  | .badBase => .badBase
  | .needMore =>
    if s.window.length = Config.maxInsnLen - s.pfx.len then .tooLong else .overrun (s.fetched 0)

/-- A byte placed in memory from outside the machine: where nothing was placed there is then ROM. -/
def State.placeByte (s : State) (location : Nat) (v : Byte) : State :=
  { s with
    mem := Memory.write s.mem location v
    board :=
      if s.board.kindAt location = .nothing then
        { s.board with memMap := { first := location, last := location, kind := .rom } :: s.board.memMap }
      else s.board }

/-- Bytes placed in memory from a code offset on, as from outside the machine. -/
def State.placeCode (s : State) (off : Word) (bytes : List Byte) : State :=
  match bytes with
  | [] => s
  | v :: rest => (s.placeByte (s.physical (s.cs.base + zeroExtend24 off)) v).placeCode (off + 1) rest

end Sys2Proof.Machine
end

