-- ==== Sys2Proof/Machine/Step.lean ====
section
/-! DEFINITION. One step of the machine: RESET, an event of the boundary, or one instruction (60_exceptions.md R509). -/

namespace Sys2Proof.Machine

/-- Execute the next prefix byte or instruction; a byte beyond the end of the segment is exception 13 (20_memory.md
R85). -/
def runInstruction (s : State) : Host.Outcome State Fault Refusal :=
  match fetch s with
  | .run i t => exec i t
  | .overrun t => takeException 13 (some 0) t
  | .tooLong => .refused .tooLong
  | .badBase => .refused .adjustBase

/-- The next iteration of a repeated string instruction, or the next prefix byte or instruction. -/
def advance (s : State) : Host.Outcome State Fault Refusal :=
  match s.repeating with
  | some r => exec r.instr (s.resumed r)
  | none => runInstruction s

/-- One step. RESET may come at any time, every other event only where no prefix has been read; halt and shutdown stay
until an event ends them (60_exceptions.md R509, R544, R545, 70_reset_and_hazards.md R600). -/
def step (s : State) : Host.Outcome State Fault Refusal :=
  if s.pins.reset then .next s.resetByPin
  else if s.pfx.len = 0 then
    match s.event with
    | some e => takeEvent e s
    | none => if s.halted || s.shutdown then .next s else advance s
  else runInstruction s

/-- The instruction of an opcode-table word, with zero bytes up to the longest instruction, where the next step
fetches; no event comes before it. -/
def State.withFetchWord (s : State) (nbits w : Nat) : State :=
  { s.placeCode s.ip (tableBytes (nbits / 8) w ++ List.replicate (Config.maxInsnLen - nbits / 8) 0#8) with
    stale := []
    realQueue := none
    repeating := none
    pfx := noPrefixes
    ipWrap := false
    halted := false
    shutdown := false
    trap := false
    nmiPending := false
    overrunPending := false
    pins := { s.pins with reset := false, intr := none, pereq := 0 } }

end Sys2Proof.Machine
end

