-- ==== Sys2Proof/Safety.lean ====
section
/-! DEFINITION. What holds of every state the machine can be in, what counts as a safe step, and the words the
statements use: when an instruction may be executed, and what it leaves unchanged. -/

namespace Sys2Proof.Machine

/-! The invariant. -/

/-- A segment register as RESET and every real-mode load leave it (20_memory.md R82, 10_state.md R44). -/
def SegReg.isReal (g : SegReg) : Prop := g.rights = .real ∧ g.limit = 0xFFFF ∧ g.base ≤ 0xFF0000

/-- In real mode IOPL and NT are 0 and every segment is 64K bytes that may be read, written and executed
(10_state.md R29, 20_memory.md R82) and begins no higher than the code segment of RESET (10_state.md R44). -/
def State.RealModeForm (s : State) : Prop :=
  s.msw.pe = false →
    s.flags.iopl = 0 ∧ s.flags.nt = false ∧ s.es.isReal ∧ s.cs.isReal ∧ s.ss.isReal ∧ s.ds.isReal

/-- What every step keeps: the canonical form of memory, and the form of real mode. -/
def State.Inv (s : State) : Prop := Memory.wf s.mem = true ∧ s.RealModeForm

/-- A step that does not end in a model fault. -/
def State.StepSafe (s : State) : Prop := ∀ f, step s ≠ .fault f

/-! When an instruction may be executed. -/

/-- The instruction at hand has no repeat prefix, and a LOCK prefix only where CPL and IOPL allow it
(46_processor_control.md R431, 93_implementation_defined.md U6). -/
def State.Ready (s : State) : Prop := s.pfx.rep = none ∧ s.lockAllowed = true

/-- `Ready` in protected mode. -/
def State.InProtected (s : State) : Prop := s.msw.pe = true ∧ s.Ready

/-- `InProtected`, at an instruction that was not decoded in real mode before LMSW set PE (20_memory.md R141,
70_reset_and_hazards.md R614). -/
def State.ReadyProtected (s : State) : Prop := s.InProtected ∧ s.decodedReal = false

/-- The next step goes on with the program: no RESET, and at the start of an instruction no event, no halt, no shutdown
(60_exceptions.md R509). -/
def State.GoesOn (s : State) : Prop :=
  s.pins.reset = false ∧ (s.pfx.len = 0 → s.event = none ∧ s.halted = false ∧ s.shutdown = false)

/-- The next step takes bytes at CS:IP: the program goes on, and not with a repeated string instruction (43_string.md
R320). -/
def State.Fetches (s : State) : Prop := s.GoesOn ∧ (s.pfx.len = 0 → s.repeating = none)

/-! What an instruction leaves unchanged. -/

/-- The memory locations of an operand at an offset through a descriptor cache. -/
def State.cells (s : State) (g : SegReg) (off : Word) (w : Width) : List Nat :=
  match w with
  | .byte => [s.physical (g.base + zeroExtend24 off)]
  | .word => [s.physical (g.base + zeroExtend24 off), s.physical (g.base + zeroExtend24 off + 1)]

/-- The memory locations of an r/m operand: none for a register. -/
def State.rmCells (s : State) (rm : Rm) (w : Width) : List Nat :=
  match rm with
  | .reg _ => []
  | .mem m => s.cells (s.seg (s.eaSeg m)) (s.ea m) w

/-- The general register an r/m operand is or lies in: none for memory. -/
def rmRegs (rm : Rm) (w : Width) : List Reg :=
  match rm, w with
  | .reg r, .byte => [r &&& 3]
  | .reg r, .word => [r]
  | .mem _, _ => []

/-- Every general register outside a list is unchanged. -/
def State.SameRegs (s t : State) (except : List Reg) : Prop := ∀ r, r ∉ except → t.reg r = s.reg r

/-- The memory locations of `count` words pushed below `sp` through a descriptor cache. -/
def State.frameCells (s : State) (g : SegReg) (sp : Word) (count : Nat) : List Nat :=
  (List.range count).flatMap fun k => s.cells g (sp - BitVec.ofNat 16 (2 * k + 2)) .word

/-- The memory locations of `count` words pushed below SP. -/
def State.pushCells (s : State) (count : Nat) : List Nat := s.frameCells s.ss (s.reg SP) count

/-- Every byte of memory outside a list of locations holds what it held. -/
def State.SameMemory (s t : State) (except : List Nat) : Prop :=
  ∀ a, a ∉ except → Memory.read t.mem a = Memory.read s.mem a

/-- `i` completes by storing `v` in r/m; the flags become `f` and `k` free values are drawn. No register and no byte of
memory changes outside r/m, and nothing else but the prefixes of the instruction, which are used up. -/
def WritesRm (i : Instr) (s : State) (rm : Rm) (w : Width) (v : BitVec w.bits) (f : Flags) (k : Nat) : Prop :=
  let t : State := { s.setRm rm w v with flags := f, free := s.free + k, pfx := noPrefixes }
  exec i s = .next t ∧ s.SameRegs t (rmRegs rm w) ∧ s.SameMemory t (s.rmCells rm w)

/-- `i` completes by storing `v` in a general register. -/
def WritesReg (i : Instr) (s : State) (w : Width) (r : Reg) (v : BitVec w.bits) (f : Flags) (k : Nat) : Prop :=
  WritesRm i s (.reg r) w v f k

/-- `i` completes by writing the flags `f`, with `k` free values drawn; nothing else changes but the prefixes. -/
def WritesFlags (i : Instr) (s : State) (f : Flags) (k : Nat) : Prop :=
  exec i s = .next { s with flags := f, free := s.free + k, pfx := noPrefixes }

/-- Execution goes on at an offset of the code segment: the queues are discarded (20_memory.md R141) and the prefixes of
the instruction used up. -/
def State.goTo (s : State) (target : Word) : State :=
  { s with ip := target, ipWrap := false, stale := [], realQueue := none, repeating := none, pfx := noPrefixes }

/-- `i` completes by going on at `target` in the same code segment; nothing else changes but the prefixes. -/
def JumpsTo (i : Instr) (s : State) (target : Word) : Prop := exec i s = .next (s.goTo target)

/-- `i` completes with no effect but that its prefixes are used up. -/
def DoesNothing (i : Instr) (s : State) : Prop := exec i s = .next { s with pfx := noPrefixes }

/-- `i` completes by pushing `v`: the word below SP through SS, SP less 2. No other register and no other byte of memory
changes. -/
def Pushes (i : Instr) (s : State) (v : Word) : Prop :=
  let t : State := { (s.store .ss (s.reg SP - 2) .word v).setReg SP (s.reg SP - 2) with pfx := noPrefixes }
  exec i s = .next t ∧ s.SameRegs t [SP] ∧ s.SameMemory t (s.cells s.ss (s.reg SP - 2) .word)

/-- `i` ends in shutdown at its first byte because its push would wrap around the stack segment (20_memory.md R86,
60_exceptions.md R545, log entry 40). SP and the bytes at offsets 0xFFFF and 0x0000 of the stack are open (log entry 20);
no other register and no other byte of memory changes. -/
def ShutsDownPushing (i : Instr) (s : State) : Prop :=
  ∃ t, exec i s = .next t ∧ s.SameRegs t [SP] ∧
    s.SameMemory t (s.cells s.ss 0xFFFF .byte ++ s.cells s.ss 0x0000 .byte) ∧
    t = { s with
      regs := t.regs, mem := t.mem, stale := t.stale, free := t.free, shutdown := true, halted := false, ip := s.curIp
      pfx := noPrefixes, trap := false, repeating := none, bus := .shutdown :: s.bus }

/-- The bus operations of one transfer of `v` at a port, the later first: a word at an odd port is its low byte there, then
its high byte at the next port (20_memory.md R72, R76, R77). -/
def transferOperations (operation : Word → Width → Word → BusEvent) (port : Word) (w : Width) (v : Word) :
    List BusEvent :=
  if w = .word ∧ port.toNat % 2 = 1 then [operation (port + 1) .byte (v >>> 8), operation port .byte (v &&& 0x00FF)]
  else [operation port w v]

/-- FLAGS after POPF or IRET pops `v`: IF only where CPL and IOPL allow, IOPL only at CPL 0, and in real mode IOPL and NT
stay 0 (40_data_transfer.md R236, 45_protected_transfer.md R405, 10_state.md R29). -/
def State.poppedFlags (s : State) (v : Word) : Flags :=
  { cf := v.getLsbD 0, pf := v.getLsbD 2, af := v.getLsbD 4, zf := v.getLsbD 6, sf := v.getLsbD 7
    tf := v.getLsbD 8, df := v.getLsbD 10, ovf := v.getLsbD 11
    ie := if s.msw.pe = false ∨ s.cpl ≤ s.flags.iopl.toNat then v.getLsbD 9 else s.flags.ie
    iopl := if s.msw.pe = false then 0 else if s.cpl = 0 then v.extractLsb' 12 2 else s.flags.iopl
    nt := s.msw.pe && v.getLsbD 14 }

/-- `i` raises exception `v` with the state before it unchanged (60_exceptions.md R502). -/
def Raises (i : Instr) (s : State) (v : Byte) (err : Option Word) : Prop := exec i s = takeException v err s

/-! Entry in real mode. -/

/-- A segment register loaded in real mode (20_memory.md R82). -/
def realSegment (sel : Word) : SegReg :=
  { sel := sel, base := BitVec.ofNat 24 (16 * sel.toNat), limit := 0xFFFF, rights := .real }

/-- The entry of vector `v` lies in the interrupt table, none of its words at physical 0xFFFFFF, and no push of the frame
wraps (60_exceptions.md R520, R545, 93_implementation_defined.md U1). -/
def State.canEnterReal (s : State) (v : Byte) : Prop :=
  s.msw.pe = false ∧ 4 * v.toNat + 3 ≤ s.idtr.limit.toNat ∧
    s.crossesTop (s.idtr.base + BitVec.ofNat 24 (4 * v.toNat)) 2 = false ∧
    s.reg SP ≠ 1 ∧ s.reg SP ≠ 3 ∧ s.reg SP ≠ 5

/-- The state at the first instruction of the handler of vector `v`: FLAGS, CS and `ret` below SP, IF and TF clear, CS:IP
from the vector table (60_exceptions.md R520). -/
def State.realEntry (s : State) (v : Byte) (ret : Word) : State :=
  let pushed := (s.writeFrame s.ss (s.reg SP) [s.flags.image, s.cs.sel, ret]).setReg SP (s.reg SP - 6)
  let entry := s.idtr.base + BitVec.ofNat 24 (4 * v.toNat)
  { pushed.goTo (pushed.readWord entry) with
    flags := { s.flags with ie := false, tf := false }
    cs := realSegment (pushed.readWord (entry + 2)) }

/-! Segments and transfers in protected mode. -/

/-- A segment register loaded from a descriptor, which counts as accessed (20_memory.md R104, R115). -/
def segmentOf (d : Descriptor) (sel : Word) : SegReg :=
  { sel := sel, base := d.base, limit := d.limit, rights := .descr (d.ar ||| 1) }

/-- The selector is not null and names the descriptor at `a`, all of it inside the physical space. -/
def State.Names (s : State) (sel : Word) (a : Addr) : Prop :=
  sel &&& 0xFFFC ≠ 0 ∧ s.descriptorAddr sel = some a ∧ s.crossesTop a 4 = false

/-- The selector names a present code segment. -/
def State.NamesCode (s : State) (sel : Word) (a : Addr) : Prop :=
  s.Names sel a ∧ (s.descriptorAt a).isCode = true ∧ (s.descriptorAt a).present = true

/-- The selector names a present call gate that CPL and RPL may use (45_protected_transfer.md R385). -/
def State.NamesCallGate (s : State) (sel : Word) (a : Addr) : Prop :=
  s.Names sel a ∧ (s.descriptorAt a).systemType = some 4 ∧ (s.descriptorAt a).present = true ∧
    max s.cpl (selectorRpl sel) ≤ (s.descriptorAt a).dpl

/-- The address of the gate of an interrupt vector (60_exceptions.md R526). -/
def State.gateAddr (s : State) (v : Byte) : Addr := s.idtr.base + BitVec.ofNat 24 (8 * v.toNat)

/-- The vector lies in the IDT and its gate is an interrupt gate or a trap gate (60_exceptions.md R526). -/
def State.HasGate (s : State) (v : Byte) : Prop :=
  8 * v.toNat + 7 ≤ s.idtr.limit.toNat ∧ s.crossesTop (s.gateAddr v) 4 = false ∧
    ((s.descriptorAt (s.gateAddr v)).systemType = some 6 ∨ (s.descriptorAt (s.gateAddr v)).systemType = some 7)

/-- The vector lies in the IDT and its gate is a present task gate, which names the available TSS described at `b`
(60_exceptions.md R526, R533). -/
def State.HasTaskGate (s : State) (v : Byte) (b : Addr) : Prop :=
  8 * v.toNat + 7 ≤ s.idtr.limit.toNat ∧ s.crossesTop (s.gateAddr v) 4 = false ∧
    (s.descriptorAt (s.gateAddr v)).systemType = some 5 ∧ (s.descriptorAt (s.gateAddr v)).present = true ∧
    s.Names (s.descriptorAt (s.gateAddr v)).gateSelector b ∧
    selectorTi (s.descriptorAt (s.gateAddr v)).gateSelector = false ∧ (s.descriptorAt b).systemType = some 1

/-- `i` is a software interrupt through vector `v` (44_control_transfer.md R368 to R370). -/
def IsSoftwareInterrupt (i : Instr) (s : State) (v : Byte) : Prop :=
  i = .intN v ∨ (i = .int3 ∧ v = 3) ∨ (i = .into ∧ v = 4 ∧ s.flags.ovf = true)

/-- FLAGS after entry through the gate of a vector: a trap gate leaves IF (60_exceptions.md R522). -/
def State.gateFlags (s : State) (v : Byte) : Flags :=
  { s.flags with
    tf := false, nt := false
    ie := s.flags.ie && (s.descriptorAt (s.gateAddr v)).systemType == some 7 }

/-- Words pushed on the stack, the first at the highest address (20_memory.md R86). -/
def State.pushed (s : State) (words : List Word) : State :=
  (s.writeFrame s.ss (s.reg SP) words).setReg SP (s.reg SP - BitVec.ofNat 16 (2 * words.length))

/-- Execution goes on at `off` in the code segment of a descriptor, at a level (45_protected_transfer.md R384). -/
def State.inCode (s : State) (c : Descriptor) (sel off : Word) (level : Nat) : State :=
  ({ s.setAccessed c with cs := segmentOf c ((sel &&& 0xFFFC) ||| BitVec.ofNat 16 level) }).goTo off

/-- The stack pointer and the stack selector the TSS holds for a level (45_protected_transfer.md R389). -/
def State.tssStack (s : State) (level : Nat) : Word × Word :=
  (s.readWord (s.tr.base + BitVec.ofNat 24 (2 + 4 * level)), s.readWord (s.tr.base + BitVec.ofNat 24 (4 + 4 * level)))

/-- The TSS holds a stack for the level, its selector names a present writable data segment of that level at `b`, and
there is room for `count` words (45_protected_transfer.md R389, R391, R392). -/
def State.HasInnerStack (s : State) (level : Nat) (b : Addr) (count : Nat) : Prop :=
  let sp := (s.tssStack level).1
  let sel := (s.tssStack level).2
  let d := s.descriptorAt b
  4 * level + 5 ≤ s.tr.limit.toNat ∧ s.crossesTop (s.tr.base + BitVec.ofNat 24 (2 + 4 * level)) 2 = false ∧
    s.Names sel b ∧ selectorRpl sel = level ∧ d.dpl = level ∧ d.isWritableData = true ∧ d.present = true ∧
    frameStop s (segmentOf d sel) sp count = none

/-- Entry into an inner level: on the stack of the level, described at `b`, the old SS, the old SP and `words`; execution
goes on at `off` in the code segment (45_protected_transfer.md R388, R391, 60_exceptions.md R532). -/
def State.innerEntry (s : State) (c : Descriptor) (sel off : Word) (b : Addr) (words : List Word) : State :=
  let stack := segmentOf (s.descriptorAt b) (s.tssStack c.dpl).2
  let frame := s.ss.sel :: s.reg SP :: words
  let pushed := (s.writeFrame stack (s.tssStack c.dpl).1 frame).setAccessed (s.descriptorAt b)
  (({ pushed with ss := stack }).setReg SP ((s.tssStack c.dpl).1 - BitVec.ofNat 16 (2 * frame.length))).inCode c sel off
    c.dpl

/-! Entries that fail a test. -/

/-- The vector lies in the IDT, all of its gate inside the physical space (60_exceptions.md R526). -/
def State.InIdt (s : State) (v : Byte) : Prop :=
  8 * v.toNat + 7 ≤ s.idtr.limit.toNat ∧ s.crossesTop (s.gateAddr v) 4 = false

/-- A task gate, an interrupt gate or a trap gate: what the IDT may hold (60_exceptions.md R526). -/
def Descriptor.IsIdtGate (d : Descriptor) : Prop :=
  d.systemType = some 5 ∨ d.systemType = some 6 ∨ d.systemType = some 7

/-- The entry of exception `v` raises another exception: vector 8 is entered with error code 0 and the return address of
`v`; where that raises an exception too the machine shuts down (60_exceptions.md R536). -/
def State.DoubleFaults (s : State) (v : Byte) (err : Option Word) : Prop :=
  let again := enter 8 s.curIp false (some 0) { s with pfx := noPrefixes, trap := false }
  (∀ t, again = .ok () t → takeException v err s = .next t) ∧
  (∀ x e t, again = .error (.exc x e) t → takeException v err s = .next t.enterShutdown)

/-- Entry through the gate of vector `v` fails a test, with the state unchanged: a software interrupt that the gate's DPL
allows raises exception `x` with error code `e` as itself (60_exceptions.md R536, GK40), exception `v` is a double
fault. -/
def State.EntryFails (s : State) (v x : Byte) (e : Word) : Prop :=
  (∀ i, s.Ready → IsSoftwareInterrupt i s v → s.cpl ≤ (s.descriptorAt (s.gateAddr v)).dpl → Raises i s x (some e)) ∧
  ∀ err, s.DoubleFaults v err

/-- The stack of a level fails a test, for which exception `x` with error code `e` is raised: the TSS is too short to
hold it (45_protected_transfer.md R389), or its selector is null, lies outside its table, does not name writable data of
the level, or names a segment that is not present (R392). -/
def State.InnerStackFails (s : State) (level : Nat) (x : Byte) (e : Word) : Prop :=
  let sel := (s.tssStack level).2
  let named := sel &&& 0xFFFC
  if s.tr.limit.toNat < 4 * level + 5 then x = 10 ∧ e = s.tr.sel &&& 0xFFFC
  else s.crossesTop (s.tr.base + BitVec.ofNat 24 (2 + 4 * level)) 2 = false ∧
    ((named = 0 ∧ x = 10 ∧ e = 0) ∨ (named ≠ 0 ∧ s.descriptorAddr sel = none ∧ x = 10 ∧ e = named) ∨
      ∃ b, s.Names sel b ∧
        let d := s.descriptorAt b
        let usable : Prop := selectorRpl sel = level ∧ d.dpl = level ∧ d.isWritableData = true
        (¬usable ∧ x = 10 ∧ e = named) ∨ (usable ∧ d.present = false ∧ x = 12 ∧ e = named))

/-- The stack of a level, described at `b`, has no room for `count` words (45_protected_transfer.md R391). -/
def State.LacksRoom (s : State) (level : Nat) (b : Addr) (count : Nat) : Prop :=
  s.HasInnerStack level b 0 ∧
    ∃ x e, frameStop s (segmentOf (s.descriptorAt b) (s.tssStack level).2) (s.tssStack level).1 count = some (.exc x e)

/-! Returns and far pointers. -/

/-- DS or ES after a return to a level: unusable if it holds a data segment or a non-conforming code segment of a more
privileged level (45_protected_transfer.md R399). -/
def SegReg.afterReturn (g : SegReg) (level : Nat) : SegReg :=
  match g.rights with
  | .null => g
  | .real => g
  | .descr ar =>
    if (ar.getLsbD 3 = false ∨ ar.getLsbD 2 = false) ∧ (ar.extractLsb' 5 2).toNat < level then
      { g with sel := 0, rights := .null }
    else g

/-- The words a return takes from the stack, each of them readable: `count` from SP on. -/
def State.Pops (s : State) (count : Nat) : Prop :=
  ∀ k, k < count → s.accessStop .ss (s.reg SP + BitVec.ofNat 16 (2 * k)) .word false = none

/-- `i` returns within the task from a frame of `size` bytes, which may be read, with `imm` bytes of parameters below it
(45_protected_transfer.md R396, R404). -/
def IsReturn (i : Instr) (s : State) (size imm : Word) : Prop :=
  (i = .retFar ∧ size = 4 ∧ imm = 0 ∧ s.Pops 2) ∨ (i = .retFarImm imm ∧ size = 4 ∧ s.Pops 2) ∨
    (i = .iret ∧ size = 6 ∧ imm = 0 ∧ s.Pops 3 ∧ s.flags.nt = false)

/-- The return to the same level: CS:IP, and SP past what leaves the stack (45_protected_transfer.md R397). -/
def State.returnedSame (s : State) (a : Addr) (sel off sp : Word) : State :=
  (({ s.setAccessed (s.descriptorAt a) with cs := segmentOf (s.descriptorAt a) sel }).setReg SP sp).goTo off

/-- The return to an outer level: CS:IP, SS:SP, and DS and ES unusable if they are more privileged
(45_protected_transfer.md R398, R399). -/
def State.returnedOuter (s : State) (a b : Addr) (sel off ssel sp : Word) : State :=
  let coded : State := { s.setAccessed (s.descriptorAt a) with cs := segmentOf (s.descriptorAt a) sel }
  let stacked : State := { coded.setAccessed (s.descriptorAt b) with ss := segmentOf (s.descriptorAt b) ssel }
  let t := (stacked.setReg SP sp).goTo off
  { t with ds := s.ds.afterReturn (selectorRpl sel), es := s.es.afterReturn (selectorRpl sel) }

/-- A memory operand holds the far pointer `sel:off`, which may be read. -/
def State.Points (s : State) (m : MemOp) (off sel : Word) : Prop :=
  s.wordsStop m 2 false = none ∧ s.memValue m 0 .word = off ∧ s.memValue m 2 .word = sel

/-- `i` is JMP intersegment to `sel:off`, given by the instruction or by a pointer in memory. -/
def IsFarJump (i : Instr) (s : State) (off sel : Word) : Prop :=
  i = .jmpFar off sel ∨ ∃ m, i = .jmpFarMem m ∧ s.Points m off sel

/-- `i` is CALL intersegment to `sel:off`, given by the instruction or by a pointer in memory. -/
def IsFarCall (i : Instr) (s : State) (off sel : Word) : Prop :=
  i = .callFar off sel ∨ ∃ m, i = .callFarMem m ∧ s.Points m off sel

/-- `i` completes by loading `sr` from the descriptor at `a`, whose accessed bit is set in its table where that is RAM;
`rest` is what it does besides, outside memory. -/
def CachesSegment (i : Instr) (s : State) (sr : SReg) (sel : Word) (a : Addr) (rest : State → State) : Prop :=
  let d := s.descriptorAt a
  let t : State := { rest ((s.setAccessed d).setSeg sr (segmentOf d sel)) with pfx := noPrefixes }
  exec i s = .next t ∧ s.SameMemory t [s.physical (a + 5)] ∧
    (Memory.wf s.mem = true → s.isRam (s.physical (a + 5)) = true → t.readByte (a + 5) = d.ar ||| 1)

/-- `i` loads DS, ES or SS with `sel` in protected mode, or takes the exception of the test that fails; `rest` is what it
does besides (20_memory.md R115, R116, R119). -/
def LoadsSegment (i : Instr) (s : State) (sr : SReg) (sel : Word) (rest : State → State) : Prop :=
  let e : Option Word := some (sel &&& 0xFFFC)
  (sel &&& 0xFFFC = 0 →
    if sr = .ss then Raises i s 13 (some 0)
    else exec i s = .next { rest (s.setSeg sr { s.seg sr with sel := sel, rights := .null }) with pfx := noPrefixes }) ∧
  (sel &&& 0xFFFC ≠ 0 → s.descriptorAddr sel = none → Raises i s 13 e) ∧
  (∀ a, s.Names sel a →
    let d := s.descriptorAt a
    let allowed : Prop :=
      if sr = .ss then selectorRpl sel = s.cpl ∧ d.isWritableData = true ∧ d.dpl = s.cpl
      else d.isReadable = true ∧ (d.isConforming = true ∨ max s.cpl (selectorRpl sel) ≤ d.dpl)
    (¬allowed → Raises i s 13 e) ∧ (allowed → d.present = false → Raises i s (if sr = .ss then 12 else 11) e) ∧
    (allowed → d.present = true → CachesSegment i s sr sel a rest))

/-! ENTER. -/

/-- The `count` frame pointers ENTER copies from below `bp` to below `sp`, each read after the ones before it are written
(44_control_transfer.md R365). -/
def State.copiedFrames (s : State) (bp sp : Word) (count : Nat) : State :=
  match count with
  | 0 => s
  | k + 1 => (s.store .ss (sp - 2) .word (s.load .ss (bp - 2) .word)).copiedFrames (bp - 2) (sp - 2) k

/-- The stack after the pushes of ENTER: old BP, then for a level above 0 the frame pointers of the outer levels and the
new one (44_control_transfer.md R365). -/
def State.enterFrame (s : State) (level : Nat) : State :=
  let frame := s.reg SP - 2
  let first := s.store .ss frame .word (s.reg BP)
  match level with
  | 0 => first
  | k + 1 => (first.copiedFrames (s.reg BP) frame k).store .ss (frame - BitVec.ofNat 16 (2 * k + 2)) .word frame

/-! Task switches. -/

/-- The descriptors a task switch may mark accessed: those its new segment registers name. -/
def State.taskDescriptors (u : State) : List Nat :=
  ([u.cs.sel, u.ss.sel, u.ds.sel, u.es.sel].filterMap u.descriptorAddr).map fun a => u.physical (a + 5)

/-- The memory locations a task switch saves the old task in (45_protected_transfer.md R412). -/
def State.savedCells (s : State) : List Nat :=
  (List.range 28).map fun j => s.physical (s.tr.base + BitVec.ofNat 24 (14 + j))

/-- The memory locations of the busy marks and of the back link (45_protected_transfer.md R414). -/
def State.linkCells (s : State) (k : SwitchKind) (t : Descriptor) : List Nat :=
  let old := s.physical (s.gdtr.base + zeroExtend24 (s.tr.sel &&& 0xFFF8) + 5)
  let new := s.physical (t.addr + 5)
  let link := [s.physical t.base, s.physical (t.base + 1)]
  match k with
  | .jmp => [old, new]
  | .call => new :: link
  | .int => new :: link
  | .iret => [old]

end Sys2Proof.Machine
end

