-- ==== Sys2Proof/Certificates/Slice0/Obligations.lean ====
section
/-! DEFINITION. The statements for the provers. The predicates they use stand in Sys2Proof/Safety.lean. -/

open Sys2Proof Sys2Proof.Machine

/-! ## Reset, encoding, the step -/

/-- 70_reset_and_hazards.md R601: the register values after RESET, and the physical address of the first fetch. -/
def Obligations.ResetValues : Prop :=
  State.reset.flags.image = 0x0002 ∧ State.reset.msw.image = 0xFFF0 ∧ State.reset.msw.pe = false ∧
  State.reset.ip = 0xFFF0 ∧ State.reset.cs.sel = 0xF000 ∧ State.reset.ds.sel = 0x0000 ∧
  State.reset.es.sel = 0x0000 ∧ State.reset.ss.sel = 0x0000 ∧
  State.reset.cs.base + zeroExtend24 State.reset.ip = 0xFFFFF0 ∧
  State.reset.idtr.base = 0x000000 ∧ State.reset.idtr.limit = 0x03FF

/-- The state after reset satisfies the invariant. -/
def Obligations.ResetInvariant : Prop := State.reset.Inv

/-- 70_reset_and_hazards.md R600, R602: RESET is taken in any state, also halted, shut down, in protected mode or between
a prefix and its instruction; it leads to the state after reset with memory unchanged. That the inputs, what the
board fixes, the record of the bus and the model's own counts stay is the model's own (log entry 45). -/
def Obligations.ResetByPin : Prop :=
  ∀ s : State, s.pins.reset = true →
    step s = .next { State.reset with
      mem := s.mem, pins := s.pins, board := s.board, bus := s.bus, free := s.free, ticks := s.ticks }

/-- Decoding the encoding of a well-formed instruction gives it back and leaves the bytes after it. -/
def Obligations.EncodeDecode : Prop :=
  ∀ (i : Instr) (rest : List Byte), i.wf = true → decode (encode i ++ rest) = .ok i rest

/-- Whatever decodes is well formed, and encoding it gives back the bytes it was read from. -/
def Obligations.DecodeEncode : Prop :=
  ∀ (bytes rest : List Byte) (i : Instr), decode bytes = .ok i rest → i.wf = true ∧ encode i ++ rest = bytes

/-- A few words of 30_encoding.md and of the instruction rules decode to the instruction they stand for. -/
def Obligations.DecodedWords : Prop :=
  decode [0b10001011#8, 0b01000110#8, 0xFE#8] = .ok (.movRegRm .word 0 (.mem (.base8 6 0xFE))) [] ∧
  decode [0b10000011#8, 0b11000011#8, 0xFF#8] = .ok (.addRmImm (.reg 3) (.sx 0xFF)) [] ∧
  decode [0b11010001#8, 0b11100000#8] = .ok (.shlRm1 .word (.reg 0)) [] ∧
  decode [0b11000111#8, 0b00000110#8, 0x00#8, 0x02#8, 0x34#8, 0x12#8] =
    .ok (.movRmImm (.mem (.direct 0x0200)) (.word 0x1234)) [] ∧
  decode [0b11101010#8, 0x00#8, 0x01#8, 0x00#8, 0x20#8] = .ok (.jmpFar 0x0100 0x2000) [] ∧
  decode [0b00001111#8, 0b00000001#8, 0b11110000#8] = .ok (.lmsw (.reg 0)) [] ∧
  decode [0b10001110#8, 0b11001000#8] = .ok (.undefined (.group 0x8E 0xC8)) []

/-- A step runs the decoded instruction: `fetched` moves IP past it (10_state.md R25), remembers where it began and
whether TF was set (60_exceptions.md R507), ends the hold-offs, and counts the free choices of the fetch (log entry 13).
An instruction that does not end within the code segment is exception 13 with error code 0 (20_memory.md R85,
92_eei_decisions.md D19), its fetch counted too (log entries 3 and 17). The next iteration of a repeated string
instruction runs the instruction as it was decoded, with its prefixes (43_string.md R320, 30_encoding.md R170). -/
def Obligations.StepRunsDecoded : Prop :=
  (∀ (s : State) (i : Instr) (rest : List Byte), s.Fetches → decode s.window = .ok i rest →
    step s = exec i (s.fetched (s.window.length - rest.length)) ∧
    (s.fetched (s.window.length - rest.length)).ip = s.ip + BitVec.ofNat 16 (s.window.length - rest.length) ∧
    (s.fetched (s.window.length - rest.length)).trap = s.flags.tf ∧
    (s.fetched (s.window.length - rest.length)).regs = s.regs ∧
    (s.fetched (s.window.length - rest.length)).flags = s.flags ∧
    (s.fetched (s.window.length - rest.length)).mem = s.mem) ∧
  (∀ s : State, s.Fetches → decode s.window = .needMore → s.window.length < Config.maxInsnLen - s.pfx.len →
    step s = takeException 13 (some 0) (s.fetched 0) ∧ (s.fetched 0).ip = s.ip ∧ (s.fetched 0).regs = s.regs ∧
    (s.fetched 0).flags = s.flags ∧ (s.fetched 0).mem = s.mem) ∧
  (∀ (s : State) (r : Repetition), s.GoesOn → s.pfx.len = 0 → s.repeating = some r →
    step s = exec r.instr { s with
      ip := r.ip, ipWrap := r.ipWrap, pfx := r.pfx, curIp := s.ip, trap := s.flags.tf, inhibitAll := false
      inhibitIntr := false, repeating := none, ticks := s.ticks + 1 })

/-! ## The whole machine -/

/-- Every step keeps the canonical form of memory and the form of real mode (10_state.md R29, 20_memory.md R82), and
leaves what the board fixes as it is (00_scope.md R8). -/
def Obligations.StepKeepsInvariant : Prop := ∀ s t : State, s.Inv → step s = .next t → t.Inv ∧ t.board = s.board

/-- 10_state.md R35: PE cannot be cleared except by RESET. -/
def Obligations.ProtectedModeStays : Prop :=
  ∀ s t : State, s.msw.pe = true → s.pins.reset = false → step s = .next t → t.msw.pe = true

/-- No step at a CPL other than 0 changes GDTR or IDTR (60_exceptions.md R560 over the whole machine). -/
def Obligations.TablesStayBelowLevelZero : Prop :=
  ∀ s t : State, s.cpl ≠ 0 → s.pins.reset = false → step s = .next t → t.gdtr = s.gdtr ∧ t.idtr = s.idtr

/-! ## Memory and registers -/

/-- Memories in canonical form that read alike everywhere are equal. An operand stored through a descriptor cache reads
back where its bytes are RAM, changes nothing where they are not (20_memory.md R143), and leaves every byte outside it
as before (20_memory.md R70, R71). The words of a stack frame all read back, the first at the highest offset (R86). -/
def Obligations.StoreThenLoad : Prop :=
  (∀ m m' : List Host.Cell, Memory.wf m = true → Memory.wf m' = true →
     (∀ a, Memory.read m a = Memory.read m' a) → m = m') ∧
  (∀ (s : State) (g : SegReg), Memory.wf s.mem = true →
     (∀ (off : Word) (w : Width) (v : BitVec w.bits),
       let t := s.storeVia g off w v
       let cells := s.cells g off w
       ((∀ a ∈ cells, s.isRam a = true) → t.loadVia g off w = v) ∧
       ((∀ a ∈ cells, s.isRam a = false) → t.mem = s.mem) ∧ s.SameMemory t cells) ∧
     (∀ (sp : Word) (words : List Word), words.length ≤ 2 ^ 15 →
       (∀ a ∈ s.frameCells g sp words.length, s.isRam a = true) →
       ∀ k (h : k < words.length),
         (s.writeFrame g sp words).loadVia g (sp - BitVec.ofNat 16 (2 * k + 2)) .word = words[k]))

/-- The 8-bit registers are the halves of AX, CX, DX and BX: a write to one leaves every other as it was, and the
16-bit registers other than the one it lies in (00_scope.md R11, 10_state.md R21). -/
def Obligations.RegisterHalves : Prop :=
  ∀ (s : State) (r : Reg) (v : Byte),
    (∀ q, (s.setReg8 r v).reg8 q = if q = r then v else s.reg8 q) ∧
    (∀ q, q ≠ r &&& 3 → (s.setReg8 r v).reg q = s.reg q)

/-- The address of a segment access in real mode: selector times 16 plus offset, of which memory sees 20 bits where the
board ignores A20 to A23 in real mode, and 24 where it does not (20_memory.md R80, R81; log entry 5). Which operand
accesses are exceptions: in real mode a word at offset 0xFFFF and nothing else (R83). In protected mode, all with error
code 0: through an unusable register vector 13, through SS 12 (R110, R119); a read of an execute-only code segment, a
write to a code segment or to read-only data, 13 (R110, R111); beyond the limit, or in an expand-down segment not above
it, 13, through SS 12 (R112); where every test passes none, but for a word at physical 0xFFFFFF (log entry 6). An
instruction whose operand access is an exception raises it with the state before it unchanged (30_encoding.md R161,
40_data_transfer.md R200, 60_exceptions.md R502). -/
def Obligations.OperandAddressing : Prop :=
  (∀ (s : State) (sel off : Word), s.msw.pe = false →
     s.physical ((realSegReg sel).base + zeroExtend24 off) =
       (if s.board.a20A23Ignored then (16 * sel.toNat + off.toNat) % 2 ^ 20 else 16 * sel.toNat + off.toNat)) ∧
  (∀ (s : State) (r : SReg) (off : Word) (w : Width) (write : Bool),
     let g := s.seg r
     let found := s.accessStop r off w write
     let stops (v : Byte) : Prop := found = some (.exc v (some 0))
     let outside : Byte := if r = .ss then 12 else 13
     let last := off.toNat + w.bytes - 1
     let atTop : Prop := w = .word ∧ g.base + zeroExtend24 off = 0xFFFFFF
     (s.msw.pe = false → found = if w = .word ∧ off = 0xFFFF then some (.exc 13 none) else none) ∧
     (s.msw.pe = true →
       (g.rights = .null → stops outside) ∧
       (g.rights = .real → (g.limit.toNat < last → stops outside) ∧ (last ≤ g.limit.toNat → ¬atTop → found = none)) ∧
       (∀ ar : Byte, g.rights = .descr ar →
         let code := ar.getLsbD 3
         let allowed : Prop :=
           if write then code = false ∧ ar.getLsbD 1 = true else code = false ∨ ar.getLsbD 1 = true
         let inside : Prop :=
           if code = false ∧ ar.getLsbD 2 = true then g.limit.toNat < off.toNat ∧ last ≤ 0xFFFF
           else last ≤ g.limit.toNat
         (¬allowed → stops 13) ∧ (allowed → ¬inside → stops outside) ∧ (allowed → inside → ¬atTop → found = none)))) ∧
  (∀ (s : State) (rm : Rm) (m : MemOp) (w : Width) (r : Reg) (k : Byte) (sr : SReg) (x : Imm) (v : Byte)
     (e : Option Word), s.Ready →
     let stop : Option Stop := some (.exc v e)
     (s.rmStop rm w true = stop → ∀ i ∈ [Instr.movRmReg w rm r, .xchgRmReg w rm r, .addRmReg w .toRm rm r,
       .adcRmReg w .toRm rm r, .subRmReg w .toRm rm r, .sbbRmReg w .toRm rm r, .andRmReg w .toRm rm r,
       .orRmReg w .toRm rm r, .xorRmReg w .toRm rm r, .incRm w rm, .decRm w rm, .negRm w rm, .notRm w rm, .rolRm1 w rm,
       .rorRmCl w rm, .rclRmImm w rm k, .rcrRm1 w rm, .shlRmCl w rm, .shrRmImm w rm k, .sarRm1 w rm], Raises i s v e) ∧
     (s.rmStop rm w false = stop → ∀ i ∈ [Instr.movRegRm w r rm, .addRmReg w .toReg rm r, .adcRmReg w .toReg rm r,
       .subRmReg w .toReg rm r, .sbbRmReg w .toReg rm r, .andRmReg w .toReg rm r, .orRmReg w .toReg rm r,
       .xorRmReg w .toReg rm r, .cmpRmReg w .toRm rm r, .cmpRmReg w .toReg rm r, .testRmReg w rm r, .mulRm w rm,
       .imulRm w rm, .divRm w rm, .idivRm w rm], Raises i s v e) ∧
     (s.rmStop rm (immWidth x) true = stop → Raises (.movRmImm rm x) s v e) ∧
     (s.rmStop rm .word true = stop → Raises (.movRmSreg rm sr) s v e) ∧
     (s.rmStop rm .word false = stop → (sr ≠ .cs → Raises (.movSregRm sr rm) s v e) ∧
       ∀ i ∈ [Instr.pushRm rm, .jmpRm rm, .callRm rm], Raises i s v e) ∧
     (∀ off, (s.accessStop (s.overrideOr .ds) off w true = stop → Raises (.movMemAcc w off) s v e) ∧
       (s.accessStop (s.overrideOr .ds) off w false = stop → Raises (.movAccMem w off) s v e)) ∧
     (s.wordsStop m 2 false = stop →
       ∀ i ∈ [Instr.lds r m, .les r m, .bound r m, .jmpFarMem m, .callFarMem m], Raises i s v e) ∧
     (s.pushStop (s.reg SP - 2) = stop → ∀ i ∈ [Instr.pushReg r, .pushSreg sr, .pushf], Raises i s v e) ∧
     (s.msw.pe = true → s.accessStop .ss (s.reg SP) .word false = stop →
       ∀ i ∈ [Instr.popReg r, .popf, .retNear, .retFar], Raises i s v e))

/-! ## Data transfer -/

/-- MOV to r/m or to memory: r/m becomes the source, no flag is written (40_data_transfer.md R201, R203, R206, R208). -/
def Obligations.MovToRm : Prop :=
  ∀ (s : State) (rm : Rm), s.Ready →
    (∀ w r, s.rmStop rm w true = none → WritesRm (.movRmReg w rm r) s rm w (s.getReg w r) s.flags 0) ∧
    (∀ i, s.rmStop rm (immWidth i) true = none →
      WritesRm (.movRmImm rm i) s rm (immWidth i) (immValue i) s.flags 0) ∧
    (∀ sr, s.rmStop rm .word true = none → WritesRm (.movRmSreg rm sr) s rm .word (s.seg sr).sel s.flags 0) ∧
    (∀ w off, s.rmStop (.mem (.direct off)) w true = none →
      WritesRm (.movMemAcc w off) s (.mem (.direct off)) w (s.getReg w 0) s.flags 0)

/-- MOV to a register, LEA, XLAT, LAHF, CBW, CWD: the destination register becomes the value, no flag is written
(40_data_transfer.md R202, R204, R205, R224, R225, R228, 41_arithmetic.md R274, R275). -/
def Obligations.LoadRegister : Prop :=
  ∀ s : State, s.Ready →
    (∀ w r rm, s.rmStop rm w false = none → WritesReg (.movRegRm w r rm) s w r (s.rmValue rm w) s.flags 0) ∧
    (∀ r i, WritesReg (.movRegImm r i) s (immWidth i) r (immValue i) s.flags 0) ∧
    (∀ w off, s.rmStop (.mem (.direct off)) w false = none →
      WritesReg (.movAccMem w off) s w 0 (s.rmValue (.mem (.direct off)) w) s.flags 0) ∧
    (∀ r m, WritesReg (.lea r m) s .word r (s.ea m) s.flags 0) ∧
    (s.accessStop (s.overrideOr .ds) (s.reg BX + zeroExtend16 (s.reg8 AL)) .byte false = none →
      WritesReg .xlat s .byte AL (s.load (s.overrideOr .ds) (s.reg BX + zeroExtend16 (s.reg8 AL)) .byte) s.flags 0) ∧
    WritesReg .lahf s .byte AH (lowByte s.flags.image) s.flags 0 ∧
    WritesReg .cbw s .word AX (signExtend16 (s.reg8 AL)) s.flags 0 ∧
    WritesReg .cwd s .word DX (if (s.reg AX).toInt < 0 then 0xFFFF else 0x0000) s.flags 0

/-- XCHG and NOP (40_data_transfer.md R218, R219): the operands trade places, 0x90 does nothing. Of two register operands
every other register of the width is as before too, so that a byte XCHG leaves the other halves alone, and every 16-bit
register that neither operand is or lies in. The prefixes are used up; nothing else changes. -/
def Obligations.Exchange : Prop :=
  ∀ s : State, s.Ready → DoesNothing .nop s ∧
    (∀ r, let t : State := { (s.setReg AX (s.reg r)).setReg r (s.reg AX) with pfx := noPrefixes }
      exec (.xchgAx r) s = .next t ∧ t.reg AX = s.reg r ∧ t.reg r = s.reg AX ∧ s.SameRegs t [AX, r]) ∧
    (∀ w m r, s.rmStop (.mem m) w true = none →
      let t : State := { (s.setMem m 0 w (s.getReg w r)).putReg w r (s.memValue m 0 w) with pfx := noPrefixes }
      exec (.xchgRmReg w (.mem m) r) s = .next t ∧ s.SameRegs t (rmRegs (.reg r) w) ∧
        s.SameMemory t (s.rmCells (.mem m) w)) ∧
    (∀ w q r,
      let t : State := { (s.putReg w q (s.getReg w r)).putReg w r (s.getReg w q) with pfx := noPrefixes }
      exec (.xchgRmReg w (.reg q) r) s = .next t ∧ t.getReg w q = s.getReg w r ∧ t.getReg w r = s.getReg w q ∧
        (∀ p, p ≠ q → p ≠ r → t.getReg w p = s.getReg w p) ∧
        s.SameRegs t (rmRegs (.reg q) w ++ rmRegs (.reg r) w) ∧ t = { s with regs := t.regs, pfx := noPrefixes })

/-- PUSH and PUSHF: the word goes below SP, and PUSH SP pushes SP as it was (40_data_transfer.md R209 to R212, R230,
20_memory.md R86). POP r/m and POP reg: SP plus 2, then the destination becomes the word that was on top, and POP SP
leaves the popped word (40_data_transfer.md R214, R215). A push at SP = 1 in real mode is shutdown and no exception
(20_memory.md R86, 60_exceptions.md R545); that SP and the word are then open for PUSHF too is log entry 20. -/
def Obligations.PushPopWord : Prop :=
  (∀ s : State, s.Ready → s.pushStop (s.reg SP - 2) = none →
     (∀ rm, s.rmStop rm .word false = none → Pushes (.pushRm rm) s (s.rmValue rm .word)) ∧
     (∀ r, Pushes (.pushReg r) s (s.reg r)) ∧ (∀ sr, Pushes (.pushSreg sr) s (s.seg sr).sel) ∧
     (∀ v, Pushes (.pushImm (.word v)) s v) ∧ (∀ v, Pushes (.pushImm (.sx v)) s (signExtend16 v)) ∧
     Pushes .pushf s s.flags.image) ∧
  (∀ s : State, s.Ready → s.msw.pe = false → s.reg SP = 1 →
     (∀ rm, s.rmStop rm .word false = none → ShutsDownPushing (.pushRm rm) s) ∧
     (∀ r, ShutsDownPushing (.pushReg r) s) ∧ (∀ sr, ShutsDownPushing (.pushSreg sr) s) ∧
     (∀ v, ShutsDownPushing (.pushImm v) s) ∧ ShutsDownPushing .pushf s) ∧
  (∀ s : State, s.Ready → s.accessStop .ss (s.reg SP) .word false = none →
     (∀ r, let t : State :=
         { (s.setReg SP (s.reg SP + 2)).setReg r (s.load .ss (s.reg SP) .word) with pfx := noPrefixes }
       exec (.popReg r) s = .next t ∧ s.SameRegs t [SP, r] ∧ s.SameMemory t []) ∧
     (∀ rm, s.rmStop rm .word true = none →
       let t : State := { (s.setReg SP (s.reg SP + 2)).setRm rm .word (s.load .ss (s.reg SP) .word) with
         pfx := noPrefixes }
       exec (.popRm rm) s = .next t ∧ s.SameRegs t (SP :: rmRegs rm .word) ∧ s.SameMemory t (s.rmCells rm .word)))

/-- PUSHA: AX, CX, DX, BX, the old SP, BP, SI, DI below SP, SP less 16 (40_data_transfer.md R213). POPA: DI, SI, BP, a
discarded word, BX, DX, CX, AX from SP up, SP plus 16, memory unchanged (R217). In real mode where no word of the frame
wraps (20_memory.md R86, log entry 20), in protected mode where all eight words may be accessed and do not wrap. -/
def Obligations.PushPopAll : Prop :=
  (∀ s : State, s.Ready → (s.msw.pe = false → (s.reg SP).toNat % 2 = 0 ∨ 16 ≤ (s.reg SP).toNat) →
     (s.msw.pe = true → frameStop s s.ss (s.reg SP) 8 = none ∧ (s.reg SP = 0 ∨ 16 ≤ (s.reg SP).toNat)) →
     let words := [s.reg AX, s.reg CX, s.reg DX, s.reg BX, s.reg SP, s.reg BP, s.reg SI, s.reg DI]
     let t : State := { (s.writeFrame s.ss (s.reg SP) words).setReg SP (s.reg SP - 16) with pfx := noPrefixes }
     exec .pusha s = .next t ∧ s.SameRegs t [SP] ∧
       s.SameMemory t (s.pushCells 8)) ∧
  (∀ s : State, s.Ready → (s.msw.pe = false → (s.reg SP).toNat % 2 = 0 ∨ (s.reg SP).toNat < 0xFFF1) →
     (s.msw.pe = true → s.popFrameStop (s.reg SP) 8 = none ∧ (s.reg SP).toNat < 0xFFF1) →
     ∃ t, exec .popa s = .next t ∧
       t.reg DI = s.load .ss (s.reg SP) .word ∧ t.reg SI = s.load .ss (s.reg SP + 2) .word ∧
       t.reg BP = s.load .ss (s.reg SP + 4) .word ∧ t.reg BX = s.load .ss (s.reg SP + 8) .word ∧
       t.reg DX = s.load .ss (s.reg SP + 10) .word ∧ t.reg CX = s.load .ss (s.reg SP + 12) .word ∧
       t.reg AX = s.load .ss (s.reg SP + 14) .word ∧ t.reg SP = s.reg SP + 16 ∧
       t = { s with regs := t.regs, pfx := noPrefixes })

/-- 60_exceptions.md R562: where CPL is not of sufficient privilege, POPF and IRET leave IF and IOPL as they were, with
no exception or other indication. IRET with NT set restores no flags but returns to another task
(45_protected_transfer.md R403). -/
def Obligations.FlagsBelowPrivilege : Prop :=
  ∀ s : State, s.InProtected →
    (s.accessStop .ss (s.reg SP) .word false = none → ∃ t, exec .popf s = .next t ∧ t.ip = s.ip ∧ t.cs = s.cs ∧
      (s.flags.iopl.toNat < s.cpl → t.flags.ie = s.flags.ie) ∧ (0 < s.cpl → t.flags.iopl = s.flags.iopl)) ∧
    (∀ u, s.flags.nt = false → returnProtected s = .ok () u →
      ∃ t, exec .iret s = .next t ∧ t.ip = u.ip ∧ t.cs = u.cs ∧
        (s.flags.iopl.toNat < s.cpl → t.flags.ie = s.flags.ie) ∧ (0 < s.cpl → t.flags.iopl = s.flags.iopl))

/-- IN and OUT where CPL and IOPL allow them: one transfer between the port and the accumulator, a word at an odd port as
the byte at that port and then the byte at the next; what the devices return is free (40_data_transfer.md R220 to R223,
20_memory.md R76, R77; log entry 24). That the port after 0xFFFF is 0x0000 is the model's (log entry 48). -/
def Obligations.PortTransfer : Prop :=
  ∀ (s : State) (w : Width), s.Ready → s.mayDoIo = true →
    let input (port : Word) : State := { s.putReg w 0 (portValue port w s.free) with
      free := s.free + portDraws port w
      bus := transferOperations .ioRead port w (asWord w (portValue port w s.free)) ++ s.bus, pfx := noPrefixes }
    let output (port : Word) : State :=
      { s with bus := transferOperations .ioWrite port w (asWord w (s.getReg w 0)) ++ s.bus, pfx := noPrefixes }
    (∀ port, exec (.inPort w port) s = .next (input (zeroExtend16 port))) ∧
    exec (.inDx w) s = .next (input (s.reg DX)) ∧
    (∀ port, exec (.outPort w port) s = .next (output (zeroExtend16 port))) ∧
    exec (.outDx w) s = .next (output (s.reg DX))

/-- Loads of DS, ES and SS in real mode: the selector and its 64K segment, no exception (20_memory.md R82,
40_data_transfer.md R207, R216, R226, R227). `inhibitAll` is the optional hold-off after a load of SS (log entry 16). -/
def Obligations.RealSegmentLoad : Prop :=
  ∀ (s : State) (sr : SReg), s.Ready → s.msw.pe = false → sr ≠ .cs →
    let held (t : State) : State :=
      { t with pfx := noPrefixes, inhibitAll := s.inhibitAll || (sr == .ss && Config.ssLoadInhibitsInterrupts) }
    (∀ rm, s.rmStop rm .word false = none →
      exec (.movSregRm sr rm) s = .next (held (s.setSeg sr (realSegment (s.rmValue rm .word))))) ∧
    (s.reg SP ≠ 0xFFFF → exec (.popSreg sr) s =
      .next (held ((s.setSeg sr (realSegment (s.load .ss (s.reg SP) .word))).setReg SP (s.reg SP + 2)))) ∧
    (∀ r m, s.wordsStop m 2 false = none → exec (.lds r m) s =
      .next { (s.setSeg .ds (realSegment (s.memValue m 2 .word))).setReg r (s.memValue m 0 .word) with pfx := noPrefixes }) ∧
    (∀ r m, s.wordsStop m 2 false = none → exec (.les r m) s =
      .next { (s.setSeg .es (realSegment (s.memValue m 2 .word))).setReg r (s.memValue m 0 .word) with pfx := noPrefixes })

/-- MOV, POP, LDS and LES to DS, ES and SS in protected mode. DS and ES (20_memory.md R115, R119): a null selector makes
the register unusable; a data or readable code descriptor that privilege and presence allow is cached, with its accessed
bit set in the table; each failed test is the exception of R115 with the selector as error code. SS (R116): null is
GeneralProtection(0); RPL, type and DPL are tested, then presence, which is vector 12. POP moves SP and LDS and LES
write their register only after the load (40_data_transfer.md R216, R226, R227). `inhibitAll` is the optional hold-off
after a load of SS (log entry 16). -/
def Obligations.ProtectedSegmentLoad : Prop :=
  ∀ s : State, s.InProtected →
    let held (sr : SReg) (t : State) : State :=
      { t with inhibitAll := s.inhibitAll || (sr == .ss && Config.ssLoadInhibitsInterrupts) }
    (∀ sr, sr ≠ .cs →
      (∀ rm, s.rmStop rm .word false = none →
        LoadsSegment (.movSregRm sr rm) s sr (s.rmValue rm .word) (held sr)) ∧
      (s.accessStop .ss (s.reg SP) .word false = none →
        LoadsSegment (.popSreg sr) s sr (s.load .ss (s.reg SP) .word)
          (fun t => held sr (t.setReg SP (s.reg SP + 2))))) ∧
    (∀ r m off sel, s.Points m off sel →
      LoadsSegment (.lds r m) s .ds sel (fun t => t.setReg r off) ∧
      LoadsSegment (.les r m) s .es sel (fun t => t.setReg r off))

/-! ## Arithmetic -/

/-- 41_arithmetic.md R241, of which AF for every destination is general knowledge (GK2, log entry 44): the sum and the
six flags of `AddFlags`; OF says that the signed sum does not fit. The other flags are unchanged. -/
def Obligations.AddFlagsRule : Prop :=
  ∀ (w : Width) (f : Flags) (a b : BitVec w.bits) (c : Bool),
    let full := a.toNat + b.toNat + c.toNat
    let r := addResult a b c
    let g := addFlags f a b c
    r.toNat = full % 2 ^ w.bits ∧ (g.cf = true ↔ 2 ^ w.bits ≤ full) ∧
    (g.af = true ↔ 16 ≤ a.toNat % 16 + b.toNat % 16 + c.toNat) ∧ (g.zf = true ↔ r.toNat = 0) ∧
    (g.sf = true ↔ r.toInt < 0) ∧
    (g.pf = true ↔ ((List.range 8).countP fun k => r.getLsbD k) % 2 = 0) ∧
    (g.ovf = true ↔ a.msb = b.msb ∧ r.msb ≠ a.msb) ∧
    (g.ovf = true ↔ a.toInt + b.toInt + c.toNat ≠ r.toInt) ∧
    g.tf = f.tf ∧ g.ie = f.ie ∧ g.df = f.df ∧ g.iopl = f.iopl ∧ g.nt = f.nt

/-- 41_arithmetic.md R242, of which AF for operands other than AL is general knowledge (GK2, 10_state.md R27, log entry
44): the difference and the six flags of `SubFlags`; OF says that the signed difference does not fit. The other flags
are unchanged. -/
def Obligations.SubFlagsRule : Prop :=
  ∀ (w : Width) (f : Flags) (a b : BitVec w.bits) (c : Bool),
    let r := subResult a b c
    let g := subFlags f a b c
    (r.toNat : Int) = ((a.toNat : Int) - b.toNat - c.toNat) % 2 ^ w.bits ∧
    (g.cf = true ↔ a.toNat < b.toNat + c.toNat) ∧
    (g.af = true ↔ a.toNat % 16 < b.toNat % 16 + c.toNat) ∧ (g.zf = true ↔ r.toNat = 0) ∧
    (g.sf = true ↔ r.toInt < 0) ∧
    (g.pf = true ↔ ((List.range 8).countP fun k => r.getLsbD k) % 2 = 0) ∧
    (g.ovf = true ↔ a.msb ≠ b.msb ∧ r.msb ≠ a.msb) ∧
    (g.ovf = true ↔ a.toInt - b.toInt - c.toNat ≠ r.toInt) ∧
    g.tf = f.tf ∧ g.ie = f.ie ∧ g.df = f.df ∧ g.iopl = f.iopl ∧ g.nt = f.nt

/-- 42_logic.md R281, which R280 marks as general knowledge (GK2, log entry 44): the flags of `LogicFlags`; AF is the
free value. The other flags are unchanged. -/
def Obligations.LogicFlagsRule : Prop :=
  ∀ (w : Width) (f : Flags) (r : BitVec w.bits) (af : Bool),
    let g := logicFlags f r af
    g.cf = false ∧ g.ovf = false ∧ (g.zf = true ↔ r.toNat = 0) ∧ (g.sf = true ↔ r.toInt < 0) ∧
    (g.pf = true ↔ ((List.range 8).countP fun k => r.getLsbD k) % 2 = 0) ∧ g.af = af ∧
    g.tf = f.tf ∧ g.ie = f.ie ∧ g.df = f.df ∧ g.iopl = f.iopl ∧ g.nt = f.nt

/-- ADD, ADC, SUB, SBB, AND, OR, XOR with r/m as destination and a register or an immediate as source (41_arithmetic.md
R243, R244, R246, R247, R251, R252, R254, R255, 42_logic.md R282, R283, R288, R289, R291, R292). AF after the logic
instructions is a free value (log entry 17). -/
def Obligations.AluToRm : Prop :=
  ∀ (s : State) (rm : Rm), s.Ready →
    let c := s.flags.cf
    (∀ w r, s.rmStop rm w true = none →
      let a := s.rmValue rm w
      let b := s.getReg w r
      WritesRm (.addRmReg w .toRm rm r) s rm w (addResult a b false) (addFlags s.flags a b false) 0 ∧
      WritesRm (.adcRmReg w .toRm rm r) s rm w (addResult a b c) (addFlags s.flags a b c) 0 ∧
      WritesRm (.subRmReg w .toRm rm r) s rm w (subResult a b false) (subFlags s.flags a b false) 0 ∧
      WritesRm (.sbbRmReg w .toRm rm r) s rm w (subResult a b c) (subFlags s.flags a b c) 0 ∧
      WritesRm (.andRmReg w .toRm rm r) s rm w (a &&& b) (logicFlags s.flags (a &&& b) (Config.freeBit s.free)) 1 ∧
      WritesRm (.orRmReg w .toRm rm r) s rm w (a ||| b) (logicFlags s.flags (a ||| b) (Config.freeBit s.free)) 1 ∧
      WritesRm (.xorRmReg w .toRm rm r) s rm w (a ^^^ b) (logicFlags s.flags (a ^^^ b) (Config.freeBit s.free)) 1) ∧
    (∀ i, s.rmStop rm (aluWidth i) true = none →
      let w := aluWidth i
      let a := s.rmValue rm w
      let b := aluValue i
      WritesRm (.addRmImm rm i) s rm w (addResult a b false) (addFlags s.flags a b false) 0 ∧
      WritesRm (.adcRmImm rm i) s rm w (addResult a b c) (addFlags s.flags a b c) 0 ∧
      WritesRm (.subRmImm rm i) s rm w (subResult a b false) (subFlags s.flags a b false) 0 ∧
      WritesRm (.sbbRmImm rm i) s rm w (subResult a b c) (subFlags s.flags a b c) 0 ∧
      WritesRm (.andRmImm rm i) s rm w (a &&& b) (logicFlags s.flags (a &&& b) (Config.freeBit s.free)) 1 ∧
      WritesRm (.orRmImm rm i) s rm w (a ||| b) (logicFlags s.flags (a ||| b) (Config.freeBit s.free)) 1 ∧
      WritesRm (.xorRmImm rm i) s rm w (a ^^^ b) (logicFlags s.flags (a ^^^ b) (Config.freeBit s.free)) 1)

/-- ADD, ADC, SUB, SBB, AND, OR, XOR with a register as destination and r/m as source, or with the accumulator and an
immediate (41_arithmetic.md R243, R245, R246, R248, R251, R253, R254, R256, 42_logic.md R282, R284, R288, R290, R291,
R293). -/
def Obligations.AluToReg : Prop :=
  ∀ (s : State), s.Ready →
    let c := s.flags.cf
    (∀ w r rm, s.rmStop rm w false = none →
      let a := s.getReg w r
      let b := s.rmValue rm w
      WritesReg (.addRmReg w .toReg rm r) s w r (addResult a b false) (addFlags s.flags a b false) 0 ∧
      WritesReg (.adcRmReg w .toReg rm r) s w r (addResult a b c) (addFlags s.flags a b c) 0 ∧
      WritesReg (.subRmReg w .toReg rm r) s w r (subResult a b false) (subFlags s.flags a b false) 0 ∧
      WritesReg (.sbbRmReg w .toReg rm r) s w r (subResult a b c) (subFlags s.flags a b c) 0 ∧
      WritesReg (.andRmReg w .toReg rm r) s w r (a &&& b) (logicFlags s.flags (a &&& b) (Config.freeBit s.free)) 1 ∧
      WritesReg (.orRmReg w .toReg rm r) s w r (a ||| b) (logicFlags s.flags (a ||| b) (Config.freeBit s.free)) 1 ∧
      WritesReg (.xorRmReg w .toReg rm r) s w r (a ^^^ b) (logicFlags s.flags (a ^^^ b) (Config.freeBit s.free)) 1) ∧
    (∀ i,
      let w := immWidth i
      let a := s.getReg w 0
      let b := immValue i
      WritesReg (.addAccImm i) s w 0 (addResult a b false) (addFlags s.flags a b false) 0 ∧
      WritesReg (.adcAccImm i) s w 0 (addResult a b c) (addFlags s.flags a b c) 0 ∧
      WritesReg (.subAccImm i) s w 0 (subResult a b false) (subFlags s.flags a b false) 0 ∧
      WritesReg (.sbbAccImm i) s w 0 (subResult a b c) (subFlags s.flags a b c) 0 ∧
      WritesReg (.andAccImm i) s w 0 (a &&& b) (logicFlags s.flags (a &&& b) (Config.freeBit s.free)) 1 ∧
      WritesReg (.orAccImm i) s w 0 (a ||| b) (logicFlags s.flags (a ||| b) (Config.freeBit s.free)) 1 ∧
      WritesReg (.xorAccImm i) s w 0 (a ^^^ b) (logicFlags s.flags (a ^^^ b) (Config.freeBit s.free)) 1)

/-- CMP and TEST write flags only, and need their memory operand only to be readable (41_arithmetic.md R259 to R261,
42_logic.md R285 to R287). -/
def Obligations.CompareAndTest : Prop :=
  ∀ (s : State), s.Ready →
    (∀ w r rm, s.rmStop rm w false = none →
      let a := s.rmValue rm w
      let b := s.getReg w r
      WritesFlags (.cmpRmReg w .toRm rm r) s (subFlags s.flags a b false) 0 ∧
      WritesFlags (.cmpRmReg w .toReg rm r) s (subFlags s.flags b a false) 0 ∧
      WritesFlags (.testRmReg w rm r) s (logicFlags s.flags (a &&& b) (Config.freeBit s.free)) 1) ∧
    (∀ i rm, s.rmStop rm (aluWidth i) false = none →
      WritesFlags (.cmpRmImm rm i) s (subFlags s.flags (s.rmValue rm (aluWidth i)) (aluValue i) false) 0) ∧
    (∀ i rm, s.rmStop rm (immWidth i) false = none →
      WritesFlags (.testRmImm rm i) s
        (logicFlags s.flags (s.rmValue rm (immWidth i) &&& immValue i) (Config.freeBit s.free)) 1) ∧
    (∀ i, WritesFlags (.cmpAccImm i) s (subFlags s.flags (s.getReg (immWidth i) 0) (immValue i) false) 0 ∧
      WritesFlags (.testAccImm i) s
        (logicFlags s.flags (s.getReg (immWidth i) 0 &&& immValue i) (Config.freeBit s.free)) 1)

/-- INC, DEC, NEG, NOT: INC and DEC leave CF as it was, NOT writes no flag (41_arithmetic.md R249, R250, R257, R258,
R262, 42_logic.md R294). -/
def Obligations.OneOperand : Prop :=
  ∀ (s : State), s.Ready →
    (∀ w rm, s.rmStop rm w true = none →
      let a := s.rmValue rm w
      WritesRm (.incRm w rm) s rm w (a + 1) { addFlags s.flags a 1 false with cf := s.flags.cf } 0 ∧
      WritesRm (.decRm w rm) s rm w (a - 1) { subFlags s.flags a 1 false with cf := s.flags.cf } 0 ∧
      WritesRm (.negRm w rm) s rm w (-a) (subFlags s.flags 0 a false) 0 ∧
      WritesRm (.notRm w rm) s rm w (~~~a) s.flags 0) ∧
    (∀ r, WritesReg (.incReg r) s .word r (s.reg r + 1)
        { addFlags s.flags (s.reg r) 1 false with cf := s.flags.cf } 0 ∧
      WritesReg (.decReg r) s .word r (s.reg r - 1) { subFlags s.flags (s.reg r) 1 false with cf := s.flags.cf } 0)

/-- AAA, AAS, DAA and DAS on the inputs the spec defines (41_arithmetic.md R263 to R266), and that they complete with
free values on the others (93_implementation_defined.md U11, log entry 19). AAM and AAD (41_arithmetic.md R272, R273):
OF, AF and CF are free values. -/
def Obligations.DecimalAdjust : Prop :=
  (∀ (s : State), s.Ready →
     let al := s.reg8 AL
     let ah := s.reg8 AH
     let low := decide (9 < al.toNat % 16) || s.flags.af
     let high := decide (0x99 < al.toNat) || s.flags.cf
     let ascii : Flags := { s.flags.allFree s.free with af := low, cf := low }
     let packed (r : Byte) : Flags :=
       { s.flags.ofResult r with af := low, cf := high, ovf := Config.freeBit s.free }
     let addLow : Byte := if low then al + 6 else al
     let subLow : Byte := if low then al - 6 else al
     (low = false → WritesReg .aaa s .word AX (concatBytes ah (al &&& 0x0F)) ascii 8 ∧
       WritesReg .aas s .word AX (concatBytes ah (al &&& 0x0F)) ascii 8) ∧
     (low = true → al.toNat ≤ 0xF9 →
       WritesReg .aaa s .word AX (concatBytes (ah + 1) ((al + 6) &&& 0x0F)) ascii 8) ∧
     (low = true → 6 ≤ al.toNat →
       WritesReg .aas s .word AX (concatBytes (ah - 1) ((al - 6) &&& 0x0F)) ascii 8) ∧
     ((low = true → al.toNat < 0xFA) →
       WritesReg .daa s .byte AL (if high then addLow + 0x60 else addLow)
         (packed (if high then addLow + 0x60 else addLow)) 8) ∧
     ((low = true → 6 ≤ al.toNat) →
       WritesReg .das s .byte AL (if high then subLow - 0x60 else subLow)
         (packed (if high then subLow - 0x60 else subLow)) 8) ∧
     (∀ i ∈ [Instr.aaa, .aas, .daa, .das], ∃ v f, WritesReg i s .word AX v f 8)) ∧
  (∀ (s : State), s.Ready →
     let al := s.reg8 AL
     let sum : Byte := BitVec.ofNat 8 ((s.reg8 AH).toNat * 10 + al.toNat)
     WritesReg .aam s .word AX (BitVec.ofNat 16 (256 * (al.toNat / 10) + al.toNat % 10))
       ((s.flags.allFree s.free).ofResult (BitVec.ofNat 8 (al.toNat % 10))) 6 ∧
     WritesReg .aad s .word AX (zeroExtend16 sum) ((s.flags.allFree s.free).ofResult sum) 6)

/-- MUL and the two forms of IMUL: the exact product in AX, DX:AX or the register; CF and OF say whether it does not fit
the lower half (41_arithmetic.md R267 to R269); SF, ZF, AF and PF are free values. -/
def Obligations.Multiply : Prop :=
  ∀ (s : State) (rm : Rm), s.Ready →
    let flags (wide : Bool) : Flags := { s.flags.allFree s.free with cf := wide, ovf := wide }
    let pair (p : Int) (wide : Bool) : State := { (s.setReg AX (BitVec.ofInt 16 p)).setReg DX (BitVec.ofInt 16 (p / 2 ^ 16))
      with flags := flags wide, free := s.free + 6, pfx := noPrefixes }
    (s.rmStop rm .byte false = none →
      let v : Byte := s.rmValue rm .byte
      let p := (s.reg8 AL).toNat * v.toNat
      let q := (s.reg8 AL).toInt * v.toInt
      WritesReg (.mulRm .byte rm) s .word AX (BitVec.ofNat 16 p) (flags (decide (2 ^ 8 ≤ p))) 6 ∧
      WritesReg (.imulRm .byte rm) s .word AX (BitVec.ofInt 16 q) (flags (decide (q < -2 ^ 7 ∨ 2 ^ 7 ≤ q))) 6) ∧
    (s.rmStop rm .word false = none →
      let v : Word := s.rmValue rm .word
      let p := (s.reg AX).toNat * v.toNat
      let q := (s.reg AX).toInt * v.toInt
      exec (.mulRm .word rm) s = .next (pair p (decide (2 ^ 16 ≤ p))) ∧
      exec (.imulRm .word rm) s = .next (pair q (decide (q < -2 ^ 15 ∨ 2 ^ 15 ≤ q))) ∧
      ∀ r i, let q := v.toInt * (sxValue i).toInt
        WritesReg (.imulRegRmImm r rm i) s .word r (BitVec.ofInt 16 q) (flags (decide (q < -2 ^ 15 ∨ 2 ^ 15 ≤ q))) 6)

/-- DIV: quotient and remainder, all six status flags free; a zero divisor or a quotient that does not fit is
DivideError with nothing changed (41_arithmetic.md R270, 60_exceptions.md R510). IDIV: the quotient truncated toward
zero and the remainder with the sign of the dividend; the most negative quotient is stored or traps by a free choice
(41_arithmetic.md R271, 93_implementation_defined.md U10, log entry 18). -/
def Obligations.Divide : Prop :=
  (∀ (s : State) (rm : Rm), s.Ready →
     (s.rmStop rm .byte false = none →
       let v : Byte := s.rmValue rm .byte
       let d := v.toNat
       let x := (s.reg AX).toNat
       (d ≠ 0 → x / d ≤ 0xFF → WritesReg (.divRm .byte rm) s .word AX
         (BitVec.ofNat 16 (256 * (x % d) + x / d)) (s.flags.allFree s.free) 6) ∧
       (d = 0 ∨ 0xFF < x / d → Raises (.divRm .byte rm) s 0 none)) ∧
     (s.rmStop rm .word false = none →
       let v : Word := s.rmValue rm .word
       let d := v.toNat
       let x := 2 ^ 16 * (s.reg DX).toNat + (s.reg AX).toNat
       (d ≠ 0 → x / d ≤ 0xFFFF → exec (.divRm .word rm) s =
         .next { (s.setReg AX (BitVec.ofNat 16 (x / d))).setReg DX (BitVec.ofNat 16 (x % d)) with
           flags := s.flags.allFree s.free, free := s.free + 6, pfx := noPrefixes }) ∧
       (d = 0 ∨ 0xFFFF < x / d → Raises (.divRm .word rm) s 0 none))) ∧
  (∀ (s : State) (rm : Rm), s.Ready →
     (s.rmStop rm .byte false = none →
       let v : Byte := s.rmValue rm .byte
       let d := v.toInt
       let x := (s.reg AX).toInt
       let done : Prop := WritesReg (.idivRm .byte rm) s .word AX
         (concatBytes (BitVec.ofInt 8 (x.tmod d)) (BitVec.ofInt 8 (x.tdiv d))) (s.flags.allFree s.free) 7
       (d ≠ 0 → -127 ≤ x.tdiv d → x.tdiv d ≤ 127 → done) ∧
       (d ≠ 0 → x.tdiv d = -128 →
         if Config.freeBit (s.free + 6) then
           exec (.idivRm .byte rm) s = takeException 0 none { s with free := s.free + 7 }
         else done) ∧
       (d = 0 ∨ x.tdiv d < -128 ∨ 127 < x.tdiv d → Raises (.idivRm .byte rm) s 0 none)) ∧
     (s.rmStop rm .word false = none →
       let v : Word := s.rmValue rm .word
       let d := v.toInt
       let x := (s.reg DX).toInt * 2 ^ 16 + (s.reg AX).toNat
       let done : Prop := exec (.idivRm .word rm) s =
         .next { (s.setReg AX (BitVec.ofInt 16 (x.tdiv d))).setReg DX (BitVec.ofInt 16 (x.tmod d)) with
           flags := s.flags.allFree s.free, free := s.free + 7, pfx := noPrefixes }
       (d ≠ 0 → -32767 ≤ x.tdiv d → x.tdiv d ≤ 32767 → done) ∧
       (d ≠ 0 → x.tdiv d = -32768 →
         if Config.freeBit (s.free + 6) then
           exec (.idivRm .word rm) s = takeException 0 none { s with free := s.free + 7 }
         else done) ∧
       (d = 0 ∨ x.tdiv d < -32768 ∨ 32767 < x.tdiv d → Raises (.idivRm .word rm) s 0 none)))

/-! ## Shifts and rotates -/

/-- Shifts and rotates by 1, by CL and by an immediate: nothing happens for an effective count of 0, otherwise r/m
becomes the result (42_logic.md R295). -/
def Obligations.ShiftForms : Prop :=
  ∀ (s : State) (w : Width) (rm : Rm) (k : Byte), s.Ready → s.rmStop rm w true = none →
    ∀ p ∈ [(Instr.rolRm1 w rm, ShiftOp.rol, 1), (.rolRmCl w rm, .rol, s.reg8 CL), (.rolRmImm w rm k, .rol, k),
      (.rorRm1 w rm, .ror, 1), (.rorRmCl w rm, .ror, s.reg8 CL), (.rorRmImm w rm k, .ror, k),
      (.rclRm1 w rm, .rcl, 1), (.rclRmCl w rm, .rcl, s.reg8 CL), (.rclRmImm w rm k, .rcl, k),
      (.rcrRm1 w rm, .rcr, 1), (.rcrRmCl w rm, .rcr, s.reg8 CL), (.rcrRmImm w rm k, .rcr, k),
      (.shlRm1 w rm, .shl, 1), (.shlRmCl w rm, .shl, s.reg8 CL), (.shlRmImm w rm k, .shl, k),
      (.shrRm1 w rm, .shr, 1), (.shrRmCl w rm, .shr, s.reg8 CL), (.shrRmImm w rm k, .shr, k),
      (.sarRm1 w rm, .sar, 1), (.sarRmCl w rm, .sar, s.reg8 CL), (.sarRmImm w rm k, .sar, (k : Byte))],
      (p.2.2.toNat % 32 = 0 → DoesNothing p.1 s) ∧
      (p.2.2.toNat % 32 ≠ 0 → WritesRm p.1 s rm w (shiftResult p.2.1 (s.rmValue rm w) p.2.2 s.flags.cf)
        (shiftFlags s.flags p.2.1 (s.rmValue rm w) p.2.2 s.free) 2)

/-- What the shifts and rotates compute, all steps at once: SHL, SHR and SAR shift by the count, ROL and ROR rotate the
operand, RCL and RCR rotate it with CF on top (42_logic.md R296 to R302). CF is the last bit shifted out; OF is that of
the rule after one step and a free value after more; the shifts write ZF, SF and PF of the result and leave AF a free
value, the rotates leave those four as they were (42_logic.md R295; log entry 17). -/
def Obligations.ShiftResults : Prop :=
  (∀ (w : Width) (x : BitVec w.bits) (k : Byte) (cf : Bool),
     let c := k.toNat % 32
     let out (op : ShiftOp) := shiftSteps op c x cf
     shiftResult .shl x k cf = x <<< c ∧ shiftResult .shr x k cf = x >>> c ∧
     shiftResult .sar x k cf = x.sshiftRight c ∧
     shiftResult .rol x k cf = x.rotateLeft c ∧ shiftResult .ror x k cf = x.rotateRight c ∧
     BitVec.ofBool (out .rcl).2 ++ (out .rcl).1 = (BitVec.ofBool cf ++ x).rotateLeft c ∧
     BitVec.ofBool (out .rcr).2 ++ (out .rcr).1 = (BitVec.ofBool cf ++ x).rotateRight c) ∧
  (∀ (w : Width) (f : Flags) (x : BitVec w.bits) (k : Byte) (n : Nat), k.toNat % 32 ≠ 0 →
     let c := k.toNat % 32
     let g (op : ShiftOp) := shiftFlags f op x k n
     let r (op : ShiftOp) := shiftResult op x k f.cf
     (g .shl).cf = (decide (c ≤ w.bits) && x.getLsbD (w.bits - c)) ∧ (g .shr).cf = x.getLsbD (c - 1) ∧
     (g .sar).cf = (if c ≤ w.bits then x.getLsbD (c - 1) else x.msb) ∧
     (g .rol).cf = (r .rol).getLsbD 0 ∧ (g .ror).cf = (r .ror).msb ∧
     (g .rcl).cf = ((BitVec.ofBool f.cf ++ x).rotateLeft c).msb ∧
     (g .rcr).cf = ((BitVec.ofBool f.cf ++ x).rotateRight c).msb ∧
     (c = 1 → (g .shl).ovf = ((x <<< 1).msb != x.msb) ∧ (g .shr).ovf = x.msb ∧ (g .sar).ovf = false ∧
       (∀ op ∈ [ShiftOp.rol, .rcl], (g op).ovf = ((r op).msb != (g op).cf)) ∧
       (∀ op ∈ [ShiftOp.ror, .rcr], (g op).ovf = ((r op).msb != (r op).getLsbD (w.bits - 2)))) ∧
     (∀ op ∈ [ShiftOp.shl, .shr, .sar], ((g op).zf = true ↔ r op = 0) ∧ ((g op).sf = true ↔ (r op).toInt < 0) ∧
       ((g op).pf = true ↔ ((List.range 8).countP fun b => (r op).getLsbD b) % 2 = 0) ∧
       (g op).af = Config.freeBit (n + 1)) ∧
     (∀ op ∈ [ShiftOp.rol, .ror, .rcl, .rcr], (g op).zf = f.zf ∧ (g op).sf = f.sf ∧ (g op).pf = f.pf ∧ (g op).af = f.af) ∧
     (∀ op, (c ≠ 1 → (g op).ovf = Config.freeBit n) ∧ (g op).tf = f.tf ∧ (g op).ie = f.ie ∧ (g op).df = f.df ∧
       (g op).iopl = f.iopl ∧ (g op).nt = f.nt))

/-! ## Strings -/

/-- The string instructions without a repeat prefix: the element is moved, compared, input or output, the index
registers step by the element size, down where DF is set (43_string.md R311 to R317); an access that is an exception is
raised with the state before it unchanged. A word at an odd port is two byte operations (20_memory.md R76, R77); what the
devices return is free (log entry 24); that the port after 0xFFFF is 0x0000 is the model's (log entry 48). -/
def Obligations.StringOnce : Prop :=
  ∀ (s : State) (w : Width), s.Ready →
    let d : Word := if s.flags.df then -(BitVec.ofNat 16 w.bytes) else BitVec.ofNat 16 w.bytes
    let src := s.overrideOr .ds
    let si (t : State) : State := t.setReg SI (s.reg SI + d)
    let di (t : State) : State := t.setReg DI (s.reg DI + d)
    let stored (v : BitVec w.bits) : State := s.store .es (s.reg DI) w v
    (∀ v e,
      (s.accessStop src (s.reg SI) w false = some (.exc v e) →
        ∀ i ∈ [Instr.movs w, .cmps w, .lods w], Raises i s v e) ∧
      (s.accessStop .es (s.reg DI) w false = some (.exc v e) → Raises (.scas w) s v e) ∧
      (s.accessStop .es (s.reg DI) w true = some (.exc v e) → Raises (.stos w) s v e)) ∧
    (s.accessStop src (s.reg SI) w false = none →
      (s.accessStop .es (s.reg DI) w true = none →
        exec (.movs w) s = .next { di (si (stored (s.load src (s.reg SI) w))) with pfx := noPrefixes } ∧
        s.SameMemory (stored (s.load src (s.reg SI) w)) (s.cells s.es (s.reg DI) w)) ∧
      (s.accessStop .es (s.reg DI) w false = none → exec (.cmps w) s = .next { di (si s) with
        flags := subFlags s.flags (s.load src (s.reg SI) w) (s.load .es (s.reg DI) w) false, pfx := noPrefixes }) ∧
      exec (.lods w) s = .next { si (s.putReg w 0 (s.load src (s.reg SI) w)) with pfx := noPrefixes } ∧
      (s.mayDoIo = true → exec (.outs w) s = .next { si s with
        bus := transferOperations .ioWrite (s.reg DX) w (asWord w (s.load src (s.reg SI) w)) ++ s.bus
        pfx := noPrefixes })) ∧
    (s.accessStop .es (s.reg DI) w false = none → exec (.scas w) s = .next { di s with
      flags := subFlags s.flags (s.getReg w 0) (s.load .es (s.reg DI) w) false, pfx := noPrefixes }) ∧
    (s.accessStop .es (s.reg DI) w true = none →
      (exec (.stos w) s = .next { di (stored (s.getReg w 0)) with pfx := noPrefixes } ∧
        s.SameMemory (stored (s.getReg w 0)) (s.cells s.es (s.reg DI) w)) ∧
      (s.mayDoIo = true →
        let input := portValue (s.reg DX) w s.free
        exec (.ins w) s = .next { di (stored input) with
          free := s.free + portDraws (s.reg DX) w
          bus := transferOperations .ioRead (s.reg DX) w (asWord w input) ++ s.bus, pfx := noPrefixes } ∧
        s.SameMemory (stored input) (s.cells s.es (s.reg DI) w)))

/-- One step of a repeated string instruction (43_string.md R320, R321): nothing for CX = 0; otherwise the primitive and
CX less 1, and unless that ends the instruction IP is back at its first prefix, with the instruction kept as it was
decoded; whether a single-step trap then follows is the constant `stepsEachIteration` (log entry 47). An exception of
the primitive is raised in the state it leaves. That 0xF2 before MOVS, LODS, STOS, INS and OUTS repeats as well is the
model's choice (log entry 10; 93_implementation_defined.md U6). The prefix bytes are remembered for the instruction they
precede; a later segment override replaces an earlier one (30_encoding.md R151, 46_processor_control.md R431, R436);
their own steps (log entry 8) and that the last repeat prefix counts (log entry 10) are the model's. -/
def Obligations.RepeatStep : Prop :=
  (∀ (s u : State) (w : Width) (z : Bool) (v : Byte) (e : Option Word), s.pfx.rep = some z → s.lockAllowed = true →
     ∀ p ∈ [(Instr.movs w, false, movsOnce w), (.cmps w, true, cmpsOnce w), (.scas w, true, scasOnce w),
       (.lods w, false, lodsOnce w), (.stos w, false, stosOnce w), (.ins w, false, insOnce w),
       (.outs w, false, outsOnce w)],
       (s.reg CX = 0 → DoesNothing p.1 s) ∧
       (s.reg CX ≠ 0 → p.2.2 s = .ok () u →
         let last := s.reg CX = 1 ∨ (p.2.1 = true ∧ u.flags.zf ≠ z)
         (last → exec p.1 s = .next { u.setReg CX (s.reg CX - 1) with pfx := noPrefixes }) ∧
         (¬last → exec p.1 s = .next { u.setReg CX (s.reg CX - 1) with
           ip := s.curIp, ipWrap := false, trap := s.trap && Config.stepsEachIteration, pfx := noPrefixes
           repeating := some { instr := p.1, pfx := s.pfx, ip := s.ip, ipWrap := s.ipWrap } })) ∧
       (s.reg CX ≠ 0 → p.2.2 s = .error (.exc v e) u → v ≠ 16 → exec p.1 s = takeException v e u)) ∧
  (∀ s : State,
     exec .rep s = .next { s with pfx := { s.pfx with rep := some true, len := s.pfx.len + 1 } } ∧
     exec .repne s = .next { s with pfx := { s.pfx with rep := some false, len := s.pfx.len + 1 } } ∧
     exec .lock s = .next { s with pfx := { s.pfx with lock := true, len := s.pfx.len + 1 } } ∧
     ∀ sr, exec (.segOverride sr) s = .next { s with pfx := { s.pfx with seg := some sr, len := s.pfx.len + 1 } })

/-! ## Control transfer -/

/-- JMP, CALL and RET within the segment (44_control_transfer.md R331 to R333, R336, R337, R361, R362), with the limit
test of R330 in protected mode: beyond the limit each of them is GeneralProtection(0) with nothing pushed or popped. -/
def Obligations.NearTransfer : Prop :=
  (∀ (s : State), s.Ready →
     let reaches (i : Instr) (t : Word) : Prop :=
       (s.msw.pe = false ∨ t ≤ s.cs.limit → JumpsTo i s t) ∧
       (s.msw.pe = true → s.cs.limit < t → Raises i s 13 (some 0))
     (∀ d, reaches (.jmpShort d) (s.ip + signExtend16 d)) ∧ (∀ d, reaches (.jmpNear d) (s.ip + d)) ∧
     (∀ rm, s.rmStop rm .word false = none → reaches (.jmpRm rm) (s.rmValue rm .word))) ∧
  (∀ (s : State), s.Ready →
     let calls (i : Instr) (target : Word) : Prop :=
       let t : State := ((s.store .ss (s.reg SP - 2) .word s.ip).setReg SP (s.reg SP - 2)).goTo target
       (s.msw.pe = false ∨ target ≤ s.cs.limit) → s.pushStop (s.reg SP - 2) = none →
         exec i s = .next t ∧ s.SameRegs t [SP] ∧ s.SameMemory t (s.pushCells 1)
     let barred (i : Instr) (target : Word) : Prop :=
       s.msw.pe = true → s.cs.limit < target → Raises i s 13 (some 0)
     (∀ d, calls (.callNear d) (s.ip + d) ∧ barred (.callNear d) (s.ip + d)) ∧
     (∀ rm, s.rmStop rm .word false = none →
       calls (.callRm rm) (s.rmValue rm .word) ∧ barred (.callRm rm) (s.rmValue rm .word)) ∧
     (let target : Word := s.load .ss (s.reg SP) .word
      s.accessStop .ss (s.reg SP) .word false = none →
        barred .retNear target ∧ (∀ n, barred (.retNearImm n) target) ∧
        ((s.msw.pe = false ∨ target ≤ s.cs.limit) →
          exec .retNear s = .next ((s.setReg SP (s.reg SP + 2)).goTo target) ∧
          ∀ n, exec (.retNearImm n) s = .next ((s.setReg SP (s.reg SP + 2 + n)).goTo target))))

/-- The sixteen conditional jumps and JCXZ (44_control_transfer.md R340 to R356, R360): taken within the limit they go to
the target, taken beyond it they raise GeneralProtection(0), not taken they do nothing. LOOP, LOOPZ, LOOPNZ: CX less 1
without flags, then the jump if CX is not 0 and the condition holds (R357 to R359). -/
def Obligations.ConditionalJumps : Prop :=
  (∀ (s : State) (d : Byte), s.Ready →
     let f := s.flags
     ∀ p ∈ [(Instr.jo d, f.ovf), (.jno d, !f.ovf), (.jb d, f.cf), (.jnb d, !f.cf), (.je d, f.zf), (.jne d, !f.zf),
       (.jbe d, f.cf || f.zf), (.jnbe d, !f.cf && !f.zf), (.js d, f.sf), (.jns d, !f.sf), (.jp d, f.pf),
       (.jnp d, !f.pf), (.jl d, f.sf != f.ovf), (.jnl d, f.sf == f.ovf), (.jle d, f.zf || f.sf != f.ovf),
       (.jnle d, !f.zf && f.sf == f.ovf), (.jcxz d, s.reg CX == 0)],
       (p.2 = true → s.msw.pe = false ∨ s.ip + signExtend16 d ≤ s.cs.limit →
         JumpsTo p.1 s (s.ip + signExtend16 d)) ∧
       (p.2 = true → s.msw.pe = true → s.cs.limit < s.ip + signExtend16 d → Raises p.1 s 13 (some 0)) ∧
       (p.2 = false → DoesNothing p.1 s)) ∧
  (∀ (s : State) (d : Byte), s.Ready →
     let target := s.ip + signExtend16 d
     ∀ p ∈ [(Instr.loop d, true), (.loopz d, s.flags.zf), (.loopnz d, !s.flags.zf)],
       let taken := p.2 = true ∧ s.reg CX ≠ 1
       (¬taken → exec p.1 s = .next { s.setReg CX (s.reg CX - 1) with pfx := noPrefixes }) ∧
       (taken → s.msw.pe = false ∨ target ≤ s.cs.limit →
         exec p.1 s = .next ((s.setReg CX (s.reg CX - 1)).goTo target)) ∧
       (taken → s.msw.pe = true → s.cs.limit < target → Raises p.1 s 13 (some 0)))

/-- Intersegment JMP, CALL and RET in real mode; CALL pushes CS, then IP (44_control_transfer.md R334, R335, R338, R339,
R363, R364). -/
def Obligations.FarTransferReal : Prop :=
  ∀ (s : State), s.Ready → s.msw.pe = false →
    let go (t : State) (off sel : Word) : State := { t.goTo off with cs := realSegment sel }
    let pushed : State := ((s.store .ss (s.reg SP - 2) .word s.cs.sel).store .ss (s.reg SP - 4) .word s.ip).setReg SP
      (s.reg SP - 4)
    (∀ off sel, exec (.jmpFar off sel) s = .next (go s off sel)) ∧
    (∀ m, s.wordsStop m 2 false = none →
      exec (.jmpFarMem m) s = .next (go s (s.memValue m 0 .word) (s.memValue m 2 .word))) ∧
    (s.reg SP ≠ 1 → s.reg SP ≠ 3 →
      (∀ off sel, exec (.callFar off sel) s = .next (go pushed off sel)) ∧
      (∀ m, s.wordsStop m 2 false = none →
        exec (.callFarMem m) s = .next (go pushed (s.memValue m 0 .word) (s.memValue m 2 .word))) ∧
      s.SameMemory pushed (s.pushCells 2)) ∧
    (s.reg SP ≠ 0xFFFF → s.reg SP ≠ 0xFFFD →
      let off : Word := s.load .ss (s.reg SP) .word
      let sel : Word := s.load .ss (s.reg SP + 2) .word
      exec .retFar s = .next (go (s.setReg SP (s.reg SP + 4)) off sel) ∧
      ∀ n, exec (.retFarImm n) s = .next (go (s.setReg SP (s.reg SP + 4 + n)) off sel))

/-- JMP and CALL in protected mode to a selector given by the instruction or by a pointer in memory
(45_protected_transfer.md R381 to R383). The tests: a null selector is GeneralProtection(0); one outside its table, a
data segment or another descriptor that is no target, a code segment of a level it may not be reached from are vector 13
with the selector, one that is not present 11, an offset beyond its limit GeneralProtection(0). Where they pass, CALL
pushes the CS selector and the next IP, CS is loaded with CPL in its low bits and the accessed bit is set (R384;
44_control_transfer.md R338). -/
def Obligations.FarTransferProtected : Prop :=
  ∀ (s : State) (i : Instr) (off sel : Word), s.InProtected → IsFarJump i s off sel ∨ IsFarCall i s off sel →
    let e : Option Word := some (sel &&& 0xFFFC)
    (sel &&& 0xFFFC = 0 → Raises i s 13 (some 0)) ∧
    (sel &&& 0xFFFC ≠ 0 → s.descriptorAddr sel = none → Raises i s 13 e) ∧
    (∀ a, s.Names sel a →
      let d := s.descriptorAt a
      let level : Prop :=
        if d.isConforming then d.dpl ≤ s.cpl else d.dpl = s.cpl ∧ selectorRpl sel ≤ s.cpl
      let jumped := s.inCode d sel off s.cpl
      let called := (s.pushed [s.cs.sel, s.ip]).inCode d sel off s.cpl
      (d.isCode = false → d.systemType ≠ some 1 → d.systemType ≠ some 4 → d.systemType ≠ some 5 → Raises i s 13 e) ∧
      (d.isCode = true → ¬level → Raises i s 13 e) ∧
      (d.isCode = true → level → d.present = false → Raises i s 11 e) ∧
      (d.isCode = true → level → d.present = true →
        (d.limit < off → Raises i s 13 (some 0)) ∧
        (off ≤ d.limit →
          (IsFarJump i s off sel → exec i s = .next jumped ∧ s.SameMemory jumped [s.physical (a + 5)]) ∧
          (IsFarCall i s off sel →
            (∀ v x, frameStop s s.ss (s.reg SP) 2 = some (.exc v x) → Raises i s v x) ∧
            (frameStop s s.ss (s.reg SP) 2 = none → exec i s = .next called ∧ s.SameRegs called [SP] ∧
              s.SameMemory called (s.physical (a + 5) :: s.pushCells 2))))))

/-- JMP and CALL through a call gate (45_protected_transfer.md R385 to R387): a gate more privileged than CPL or RPL,
and one that is not present, are exceptions that name the gate; a null destination is GeneralProtection(0); a destination
outside its table, no code segment, less privileged than CPL or not present, and for a JMP a non-conforming segment of
another level, are exceptions that name the destination; at the same level control goes to the gate's offset, the offset
of the instruction being ignored. -/
def Obligations.CallGateSameLevel : Prop :=
  ∀ (s : State) (i : Instr) (off sel : Word) (ga : Addr), s.InProtected → s.Names sel ga →
    (s.descriptorAt ga).systemType = some 4 → IsFarJump i s off sel ∨ IsFarCall i s off sel →
    let g := s.descriptorAt ga
    let csel := g.gateSelector
    let jumps := IsFarJump i s off sel
    let calls := IsFarCall i s off sel
    let e : Option Word := some (csel &&& 0xFFFC)
    (g.dpl < max s.cpl (selectorRpl sel) → Raises i s 13 (some (sel &&& 0xFFFC))) ∧
    (max s.cpl (selectorRpl sel) ≤ g.dpl → g.present = false → Raises i s 11 (some (sel &&& 0xFFFC))) ∧
    (max s.cpl (selectorRpl sel) ≤ g.dpl → g.present = true →
      (csel &&& 0xFFFC = 0 → Raises i s 13 (some 0)) ∧
      (csel &&& 0xFFFC ≠ 0 → s.descriptorAddr csel = none → Raises i s 13 e) ∧
      (∀ a, s.Names csel a →
        let c := s.descriptorAt a
        let jumped := s.inCode c csel g.limit s.cpl
        let called := (s.pushed [s.cs.sel, s.ip]).inCode c csel g.limit s.cpl
        (c.isCode = false ∨ s.cpl < c.dpl → Raises i s 13 e) ∧
        (c.isCode = true → c.dpl ≤ s.cpl → c.present = false → Raises i s 11 e) ∧
        (c.isCode = true → c.dpl ≤ s.cpl → c.present = true →
          (jumps → c.dpl < s.cpl → c.isConforming = false → Raises i s 13 e) ∧
          (c.isConforming = true ∨ c.dpl = s.cpl →
            (c.limit < g.limit → Raises i s 13 (some 0)) ∧
            (g.limit ≤ c.limit → (jumps → exec i s = .next jumped ∧ s.SameMemory jumped [s.physical (a + 5)]) ∧
              (calls → frameStop s s.ss (s.reg SP) 2 = none → exec i s = .next called ∧ s.SameRegs called [SP] ∧
                s.SameMemory called (s.physical (a + 5) :: s.pushCells 2)))))))

/-- ENTER and LEAVE (44_control_transfer.md R365, R366): where every word of the frame may be accessed, the old BP is
pushed, then the frame pointers of the outer levels and the new one, BP becomes the frame pointer and SP lies `size`
bytes below the last word pushed; an access that is an exception is raised before anything is written (20_memory.md
R113, 92_eei_decisions.md D21); LEAVE undoes it. BOUND (R367, 60_exceptions.md R515): nothing inside the signed
bounds, vector 5 outside. -/
def Obligations.EnterLeaveBound : Prop :=
  (∀ (s : State), s.Ready →
     (∀ (size : Word) (level : Byte),
       let l := level.toNat % 32
       let push (k : Nat) : Option Stop := s.pushStop (s.reg SP - BitVec.ofNat 16 (2 * k + 2))
       let copy (k : Nat) : Option Stop := s.accessStop .ss (s.reg BP - BitVec.ofNat 16 (2 * k)) .word false
       (∀ j v e, j ≤ l → (∀ k, k < j → push k = none) →
         (push j = some (.exc v e) → (∀ k, 0 < k → k < l → k ≤ j → copy k = none) →
           Raises (.enter size level) s v e) ∧
         (copy j = some (.exc v e) → 0 < j → j < l → (∀ k, 0 < k → k < j → copy k = none) →
           Raises (.enter size level) s v e)) ∧
       ((∀ k, k ≤ l → push k = none) → (∀ k, 0 < k → k < l → copy k = none) →
       let t : State := { ((s.enterFrame l).setReg BP (s.reg SP - 2)).setReg SP
         (s.reg SP - 2 - BitVec.ofNat 16 (2 * l) - size) with pfx := noPrefixes }
       exec (.enter size level) s = .next t ∧ s.SameRegs t [SP, BP] ∧ s.SameMemory t (s.pushCells (l + 1)))) ∧
     (s.accessStop .ss (s.reg BP) .word false = none →
       exec .leave s = .next { (s.setReg SP (s.reg BP + 2)).setReg BP (s.load .ss (s.reg BP) .word) with
         pfx := noPrefixes })) ∧
  (∀ (s : State) (r : Reg) (m : MemOp), s.Ready → s.wordsStop m 2 false = none →
     let lo : Word := s.memValue m 0 .word
     let hi : Word := s.memValue m 2 .word
     (lo.toInt ≤ (s.reg r).toInt → (s.reg r).toInt ≤ hi.toInt → DoesNothing (.bound r m) s) ∧
     ((s.reg r).toInt < lo.toInt ∨ hi.toInt < (s.reg r).toInt → Raises (.bound r m) s 5 none))

/-! ## Interrupts and exceptions -/

/-- Entry in real mode (60_exceptions.md R520). INT n, INT 3 and INTO (44_control_transfer.md R368 to R370): the return
address is the next instruction; INTO does nothing without OF. An exception: the return address is the first byte of the
instruction with its prefixes, and no error code is pushed (60_exceptions.md R502); an undefined encoding is vector 6
(R516). -/
def Obligations.InterruptEntryReal : Prop :=
  (∀ (s : State), s.Ready →
     (∀ v, s.canEnterReal v → exec (.intN v) s = .next (s.realEntry v s.ip) ∧
       s.SameRegs (s.realEntry v s.ip) [SP] ∧ s.SameMemory (s.realEntry v s.ip) (s.pushCells 3)) ∧
     (s.canEnterReal 3 → exec .int3 s = .next (s.realEntry 3 s.ip)) ∧
     (s.flags.ovf = true → s.canEnterReal 4 → exec .into s = .next (s.realEntry 4 s.ip)) ∧
     (s.flags.ovf = false → DoesNothing .into s)) ∧
  (∀ (s : State),
     (∀ v err, s.canEnterReal v → takeException v err s = .next { s.realEntry v s.curIp with trap := false } ∧
       s.SameRegs (s.realEntry v s.curIp) [SP] ∧ s.SameMemory (s.realEntry v s.curIp) (s.pushCells 3)) ∧
     (∀ u, s.canEnterReal 6 → exec (.undefined u) s = .next { s.realEntry 6 s.curIp with trap := false }))

/-- A vector outside the interrupt table. In real mode it is exception 8, for INT n too and then no single step follows
(60_exceptions.md R507); exceptions 8 and 13, and any where 8 is outside too, are shutdown (60_exceptions.md R518,
R545). In protected mode an exception whose gate lies outside the IDT becomes vector 8 with error code 0; where the gate
of 8 lies outside too, the machine shuts down (R536, R545); that IP is then the address of the instruction is the
model's choice (log entry 40). -/
def Obligations.DoubleFault : Prop :=
  (∀ (s : State) (v : Byte) (err : Option Word), s.msw.pe = false → s.idtr.limit.toNat < 4 * v.toNat + 3 →
     (v ≠ 8 → v ≠ 13 → s.canEnterReal 8 →
       takeException v err s = .next { s.realEntry 8 s.curIp with trap := false } ∧
       (s.Ready → exec (.intN v) s = .next { s.realEntry 8 s.curIp with trap := false })) ∧
     (v = 8 ∨ v = 13 ∨ s.idtr.limit.toNat < 35 → ∃ t, takeException v err s = .next t ∧ t.shutdown = true ∧
       t.regs = s.regs ∧ t.mem = s.mem)) ∧
  (∀ (s : State) (v : Byte) (err : Option Word), s.msw.pe = true → s.idtr.limit.toNat < 8 * v.toNat + 7 →
     (∀ t, enter 8 s.curIp false (some 0) { s with pfx := noPrefixes, trap := false } = .ok () t →
       takeException v err s = .next t) ∧
     (s.idtr.limit.toNat < 71 → ∃ t, takeException v err s = .next t ∧ t.shutdown = true ∧ t.ip = s.curIp ∧
       t.regs = s.regs ∧ t.mem = s.mem))

/-- IRET in real mode (44_control_transfer.md R371): IP, CS and FLAGS from the stack, IOPL and NT stay 0, NMI servicing
ends. Where the frame of INT n lies in RAM, IRET undoes INT n: IP, the CS selector, FLAGS and every general register are
as before. -/
def Obligations.InterruptReturnReal : Prop :=
  (∀ (s : State), s.Ready → s.msw.pe = false → s.reg SP ≠ 0xFFFF → s.reg SP ≠ 0xFFFD → s.reg SP ≠ 0xFFFB →
     exec .iret s = .next { (s.setReg SP (s.reg SP + 6)).goTo (s.load .ss (s.reg SP) .word) with
       cs := realSegment (s.load .ss (s.reg SP + 2) .word)
       flags := s.poppedFlags (s.load .ss (s.reg SP + 4) .word)
       nmiInService := false }) ∧
  (∀ (s : State) (v : Byte), s.Inv → s.Ready → s.canEnterReal v → (∀ a ∈ s.pushCells 3, s.isRam a = true) →
     ∃ t u, exec (.intN v) s = .next t ∧ exec .iret t = .next u ∧
       u.ip = s.ip ∧ u.cs.sel = s.cs.sel ∧ u.flags = s.flags ∧ u.regs = s.regs)

/-- Entry in protected mode through an interrupt or trap gate at the same level (60_exceptions.md R526, R522). INT n,
INT 3 and INTO push FLAGS, CS and the next IP (R530), an exception the address of the instruction and then its error code,
and no single step follows it (R531, R507). The tests before that: a vector outside the IDT, no gate there, for the
software interrupts a gate more privileged than CPL, a gate that is not present, a task gate among them (R526, R537); a
destination that is null, outside its table, no code segment, less privileged than CPL or not present; a stack without
room; an offset beyond the limit of the destination (R530). A software interrupt raises the exception of the test that
fails as itself (R536, GK40; log entries 29 and 31), an exception becomes a double fault (R536; a vector outside the IDT:
`Obligations.DoubleFault`). -/
def Obligations.SoftwareInterruptProtected : Prop :=
  ∀ (s : State) (v : Byte), s.msw.pe = true →
    let e : Word := BitVec.ofNat 16 (8 * v.toNat + 2)
    let g := s.descriptorAt (s.gateAddr v)
    let csel := g.gateSelector
    let named : Word := csel &&& 0xFFFC
    (∀ i, s.Ready → IsSoftwareInterrupt i s v →
      (s.idtr.limit.toNat < 8 * v.toNat + 7 → Raises i s 13 (some e)) ∧
      (s.InIdt v → ¬g.IsIdtGate ∨ g.dpl < s.cpl → Raises i s 13 (some e))) ∧
    (s.InIdt v → (¬g.IsIdtGate → ∀ err, s.DoubleFaults v err) ∧
      (g.IsIdtGate → g.present = false → s.EntryFails v 11 e)) ∧
    (s.HasGate v → g.present = true →
      (named = 0 → s.EntryFails v 13 0) ∧
      (named ≠ 0 → s.descriptorAddr csel = none → s.EntryFails v 13 named) ∧
      (∀ a, s.Names csel a →
        let c := s.descriptorAt a
        let entry (words : List Word) : State :=
          { (s.pushed words).inCode c csel g.limit s.cpl with flags := s.gateFlags v }
        (c.isCode = false ∨ s.cpl < c.dpl → s.EntryFails v 13 named) ∧
        (c.isCode = true → c.dpl ≤ s.cpl → c.present = false → s.EntryFails v 11 named) ∧
        (c.isCode = true → c.dpl ≤ s.cpl → c.present = true → c.isConforming = true ∨ c.dpl = s.cpl →
          (∀ i, s.Ready → IsSoftwareInterrupt i s v → s.cpl ≤ g.dpl →
            (∀ x y, frameStop s s.ss (s.reg SP) 3 = some (.exc x y) → Raises i s x y) ∧
            (frameStop s s.ss (s.reg SP) 3 = none →
              let t := entry [s.flags.image, s.cs.sel, s.ip]
              (c.limit < g.limit → Raises i s 13 (some 0)) ∧
              (g.limit ≤ c.limit →
                exec i s = .next t ∧ s.SameRegs t [SP] ∧ s.SameMemory t (s.physical (a + 5) :: s.pushCells 3)))) ∧
          (∀ err : Option Word,
            let words := [s.flags.image, s.cs.sel, s.curIp] ++ err.toList
            (∀ x y, frameStop s s.ss (s.reg SP) words.length = some (.exc x y) → s.DoubleFaults v err) ∧
            (frameStop s s.ss (s.reg SP) words.length = none →
              let t : State := { entry words with trap := false }
              (c.limit < g.limit → s.DoubleFaults v err) ∧
              (g.limit ≤ c.limit → takeException v err s = .next t ∧ s.SameRegs t [SP] ∧
                s.SameMemory t (s.physical (a + 5) :: s.pushCells words.length)))))))

/-- Entry into a non-conforming code segment of an inner level, on the stack the TSS holds for it: old SS and SP, then
for a CALL through a call gate the parameter words in their order, CS and the next IP (45_protected_transfer.md R388 to
R391), for a software interrupt FLAGS, CS and the next IP, for an exception FLAGS, CS, the address of the instruction
and the error code (60_exceptions.md R531, R532). The tests before that: the TSS holds no stack for the level, or its
selector fails (R389, R392: InvalidTSS, not present StackFault); a parameter word may not be read (R390); the stack has no
room for the frame (R391: StackFault(0)); the gate's offset lies beyond the limit (R388, 60_exceptions.md R530). CALL and
a software interrupt raise the exception of the test that fails, an exception becomes a double fault (60_exceptions.md
R536). The tests of the inner stack are general knowledge of the spec (GK29, log entry 44), that a software interrupt
raises them as itself too (GK40; log entries 29 and 31). -/
def Obligations.InnerLevelEntry : Prop :=
  ∀ (s : State) (a b : Addr),
    let c := s.descriptorAt a
    let cells (words : List Word) : List Nat := s.physical (a + 5) :: s.physical (b + 5) ::
      s.frameCells (segmentOf (s.descriptorAt b) (s.tssStack c.dpl).2) (s.tssStack c.dpl).1 (words.length + 2)
    s.msw.pe = true → c.isConforming = false → c.dpl < s.cpl →
    (∀ (i : Instr) (off sel : Word) (ga : Addr), s.Ready → IsFarCall i s off sel → s.NamesCallGate sel ga →
      let g := s.descriptorAt ga
      let param (k : Nat) : Option Stop := s.accessStop .ss (s.reg SP + BitVec.ofNat 16 (2 * k)) .word false
      let params : List Word := (List.range g.wordCount).map fun k =>
        s.load .ss (s.reg SP + BitVec.ofNat 16 (2 * (g.wordCount - 1 - k))) .word
      let words := params ++ [s.cs.sel, s.ip]
      let t := s.innerEntry c g.gateSelector g.limit b words
      s.NamesCode g.gateSelector a →
      (∀ x e, s.InnerStackFails c.dpl x e → Raises i s x (some e)) ∧
      (s.HasInnerStack c.dpl b 0 →
        ∀ k x e, k < g.wordCount → (∀ j, k < j → j < g.wordCount → param j = none) → param k = some (.exc x e) →
          Raises i s x e) ∧
      (s.Pops g.wordCount →
        (s.LacksRoom c.dpl b (words.length + 2) → Raises i s 12 (some 0)) ∧
        (s.HasInnerStack c.dpl b (words.length + 2) →
          (c.limit < g.limit → Raises i s 13 (some 0)) ∧
          (g.limit ≤ c.limit → exec i s = .next t ∧ s.SameRegs t [SP] ∧ s.SameMemory t (cells words))))) ∧
    (∀ v : Byte,
      let g := s.descriptorAt (s.gateAddr v)
      let entry (words : List Word) : State :=
        { s.innerEntry c g.gateSelector g.limit b words with flags := s.gateFlags v }
      s.HasGate v → g.present = true → s.NamesCode g.gateSelector a →
      (∀ x e, s.InnerStackFails c.dpl x e → s.EntryFails v x e) ∧
      (∀ i, s.Ready → IsSoftwareInterrupt i s v → s.cpl ≤ g.dpl →
        (s.LacksRoom c.dpl b 5 → Raises i s 12 (some 0)) ∧
        (s.HasInnerStack c.dpl b 5 →
          let t := entry [s.flags.image, s.cs.sel, s.ip]
          (c.limit < g.limit → Raises i s 13 (some 0)) ∧
          (g.limit ≤ c.limit → exec i s = .next t ∧ s.SameRegs t [SP] ∧
            s.SameMemory t (cells [s.flags.image, s.cs.sel, s.ip])))) ∧
      (∀ err : Option Word,
        let words := [s.flags.image, s.cs.sel, s.curIp] ++ err.toList
        let t : State := { entry words with trap := false }
        (s.LacksRoom c.dpl b (words.length + 2) → s.DoubleFaults v err) ∧
        (s.HasInnerStack c.dpl b (words.length + 2) →
          (c.limit < g.limit → s.DoubleFaults v err) ∧
          (g.limit ≤ c.limit → takeException v err s = .next t ∧ s.SameRegs t [SP] ∧ s.SameMemory t (cells words)))))

/-- RET intersegment and IRET within the task in protected mode. The tests of the code segment (45_protected_transfer.md
R396): a null selector is GeneralProtection(0); a return to more privilege, a selector outside its table, no code
segment or one of another level are vector 13 with the selector, one that is not present 11, an offset beyond its limit
GeneralProtection(0). To the same level (R397), and to an outer level, whose stack segment is tested in the same way
(R398: not present is vector 12), whose stack pointer lies above the frame and whose DS and ES are emptied where they
are more privileged (R398, R399). IRET loads FLAGS as well and ends NMI servicing (R404, R405). -/
def Obligations.InterruptReturnProtected : Prop :=
  ∀ (s : State) (i : Instr) (size imm : Word), s.InProtected → IsReturn i s size imm →
    let off : Word := s.load .ss (s.reg SP) .word
    let sel : Word := s.load .ss (s.reg SP + 2) .word
    let level := selectorRpl sel
    let e : Option Word := some (sel &&& 0xFFFC)
    let finish (t : State) : State :=
      if i = .iret then { t with flags := s.poppedFlags (s.load .ss (s.reg SP + 4) .word), nmiInService := false } else t
    (sel &&& 0xFFFC = 0 → Raises i s 13 (some 0)) ∧
    (sel &&& 0xFFFC ≠ 0 → level < s.cpl ∨ s.descriptorAddr sel = none → Raises i s 13 e) ∧
    (∀ a, s.Names sel a → s.cpl ≤ level →
      let d := s.descriptorAt a
      let allowed : Prop := d.isCode = true ∧ (if d.isConforming then d.dpl ≤ level else d.dpl = level)
      (¬allowed → Raises i s 13 e) ∧
      (allowed → d.present = false → Raises i s 11 e) ∧
      (allowed → d.present = true → d.limit < off → Raises i s 13 (some 0)) ∧
      (allowed → d.present = true → off ≤ d.limit →
        (level = s.cpl →
          let t := finish (s.returnedSame a sel off (s.reg SP + size + imm))
          exec i s = .next t ∧ s.SameRegs t [SP] ∧ s.SameMemory t [s.physical (a + 5)]) ∧
        (s.cpl < level →
          let at_ : Word := s.reg SP + size + imm
          s.accessStop .ss at_ .word false = none → s.accessStop .ss (at_ + 2) .word false = none →
          let savedSp : Word := s.load .ss at_ .word
          let savedSs : Word := s.load .ss (at_ + 2) .word
          let stackError : Option Word := some (savedSs &&& 0xFFFC)
          (savedSs &&& 0xFFFC = 0 → Raises i s 13 (some 0)) ∧
          (savedSs &&& 0xFFFC ≠ 0 → s.descriptorAddr savedSs = none → Raises i s 13 stackError) ∧
          (∀ b, s.Names savedSs b →
            let g := s.descriptorAt b
            let usable : Prop := selectorRpl savedSs = level ∧ g.dpl = level ∧ g.isWritableData = true
            (¬usable → Raises i s 13 stackError) ∧ (usable → g.present = false → Raises i s 12 stackError) ∧
            (usable → g.present = true →
              let t := finish (s.returnedOuter a b sel off savedSs (savedSp + imm))
              exec i s = .next t ∧ s.SameRegs t [SP] ∧ s.SameMemory t [s.physical (a + 5), s.physical (b + 5)])))))

/-- Which hardware interrupts wait: INTR while IF is clear, and INTR, NMI and the segment overrun while an NMI is in
service (60_exceptions.md R504, R506). NMI, INTR, the segment overrun and the single-step trap in real mode: the entry
with the next instruction as return address; NMI goes into service, INTR is acknowledged; each ends a halt (R505, R506,
R507, R519, R544). The trap follows an instruction that began with TF set and took no exception (R507). What shutdown
holds back, and that an NMI ends it, is R545 and R546 with the model's choices of log entry 40. -/
def Obligations.HardwareInterrupts : Prop :=
  (∀ (s : State),
     (s.flags.ie = false → ∀ v, s.event ≠ some (.interrupt v)) ∧
     (s.nmiInService = true → s.event ≠ some .nmi ∧ s.event ≠ some .overrun ∧ ∀ v, s.event ≠ some (.interrupt v)) ∧
     (s.shutdown = true → s.event ≠ some .singleStep ∧ ∀ v, s.event ≠ some (.interrupt v)) ∧
     (s.trap = true → s.inhibitAll = false → s.shutdown = false → s.event = some .singleStep) ∧
     (s.trap = false → s.event ≠ some .singleStep) ∧
     ∀ v err t, takeException v err s = .next t → t.trap = false) ∧
  (∀ (s : State), s.pins.reset = false → s.pfx.len = 0 →
     let entry (v : Byte) : State := { ({ s with ticks := s.ticks + 1 } : State).realEntry v s.ip with
       curIp := s.ip, trap := false, halted := false, shutdown := false }
     (s.event = some .singleStep → s.canEnterReal 1 → step s = .next (entry 1)) ∧
     (s.event = some .nmi → s.canEnterReal 2 → step s =
       .next { entry 2 with nmiPending := false, nmiInService := true, pereqInhibited := false }) ∧
     (s.event = some .overrun → s.canEnterReal 9 → step s = .next { entry 9 with overrunPending := false }) ∧
     (∀ v, s.event = some (.interrupt v) → s.canEnterReal v → step s =
       .next { entry v with pins := { s.pins with intr := none }, bus := .acknowledge v :: s.bus }))

/-- HLT halts at CPL 0; halt and shutdown last until an event (46_processor_control.md R428, 60_exceptions.md R544,
R545). -/
def Obligations.HaltAndShutdown : Prop :=
  ∀ (s : State),
    (s.Ready → s.cpl = 0 →
      exec .hlt s = .next { s with halted := true, bus := .halt :: s.bus, pfx := noPrefixes }) ∧
    (s.pins.reset = false → s.pfx.len = 0 → s.event = none → s.halted = true ∨ s.shutdown = true → step s = .next s)

/-- A task switch that completes, by its steps. Saved in the old TSS: the IP, FLAGS, the general registers and the
selectors (45_protected_transfer.md R412). The busy marks and the back link (R414). Loaded from the new TSS: IP, FLAGS
with NT set by CALL and INT, the general registers, the selectors, and LDTR, CS, SS, DS and ES with their descriptors, a
null selector leaving LDTR, DS or ES unusable (R413). TS is set (R415); GDTR, IDTR and the processor extension are
unchanged, and of memory all but those bytes and the accessed bytes of the new segments. The saved and marked bytes are
said where they are RAM. JMP and CALL that name an available TSS (R393) or a task gate (R394), interrupts and exceptions
through a present task gate of the IDT, whose error code goes to the new stack (60_exceptions.md R533), and IRET with NT
set (R403) switch tasks. Before anything is changed (R411) the gate of JMP and CALL, its destination, the TSS named and the
back link are tested: JMP, CALL, software interrupts and IRET raise the exception of the test that fails, of an exception it
makes a double fault (60_exceptions.md R536, GK40; log entries 29 and 31; the tests of a task switch are GK31, log entries
34 and 44). The tests of a task gate of the IDT itself stand in `Obligations.SoftwareInterruptProtected`; what a failed
validation of the new task raises (R413) is not said here. -/
def Obligations.TaskSwitch : Prop :=
  (∀ (s u : State) (k : SwitchKind) (tsel rip : Word) (t : Descriptor), taskSwitch k tsel t rip s = .ok () u →
     let p := s.saveTask k rip
     let m := p.linkTasks k t
     let old : Addr := s.gdtr.base + zeroExtend24 (s.tr.sel &&& 0xFFF8)
     let loaded (off : Nat) : Word := m.readWord (t.base + BitVec.ofNat 24 off)
     let image : Word := ({ s.flags with nt := s.flags.nt && k != .iret } : Flags).image
     let saved : List Word := [rip, image, s.reg AX, s.reg CX, s.reg DX, s.reg BX, s.reg SP, s.reg BP, s.reg SI, s.reg DI,
       s.es.sel, s.cs.sel, s.ss.sel, s.ds.sel]
     (Memory.wf s.mem = true →
       ((∀ a ∈ s.savedCells, s.isRam a = true) → ∀ j (h : j < saved.length),
         p.readWord (s.tr.base + BitVec.ofNat 24 (14 + 2 * j)) = saved[j]) ∧
       (k = .call ∨ k = .int → s.isRam (s.physical t.base) = true → s.isRam (s.physical (t.base + 1)) = true →
         m.readWord t.base = s.tr.sel) ∧
       (k ≠ .iret → s.isRam (s.physical (t.addr + 5)) = true →
         (k = .jmp ∨ (t.addr + 5 ≠ t.base ∧ t.addr + 5 ≠ t.base + 1)) → s.msw.pe = true →
         m.readByte (t.addr + 5) = (p.readByte (t.addr + 5) &&& 0xF0) ||| 3) ∧
       (k = .jmp ∨ k = .iret → s.isRam (s.physical (old + 5)) = true → (k = .jmp → old ≠ t.addr) → s.msw.pe = true →
         m.readByte (old + 5) = (p.readByte (old + 5) &&& 0xF0) ||| 1) ∧
       Memory.wf u.mem = true) ∧
     u.tr = { sel := tsel, base := t.base, limit := t.limit } ∧ u.msw = { s.msw with ts := true } ∧
     u.ip = loaded 14 ∧ u.ip ≤ u.cs.limit ∧
     u.flags = { Flags.ofImage (loaded 16) with nt := (loaded 16).getLsbD 14 || k == .call || k == .int } ∧
     (∀ r : Reg, u.reg r = loaded (18 + 2 * r.toNat)) ∧
     u.es.sel = loaded 34 ∧ u.cs.sel = loaded 36 ∧ u.ss.sel = loaded 38 ∧ u.ds.sel = loaded 40 ∧ u.ldtr.sel = loaded 42 ∧
     (if loaded 42 &&& 0xFFFC = 0 then u.ldtr.valid = false
      else ∃ a, u.descriptorAddr (loaded 42) = some a ∧ selectorTi (loaded 42) = false ∧
        u.ldtr = { sel := loaded 42, base := (m.descriptorAt a).base, limit := (m.descriptorAt a).limit, valid := true }) ∧
     (∃ a b, u.descriptorAddr (loaded 36) = some a ∧ u.cs = segmentOf (m.descriptorAt a) (loaded 36) ∧
       let codeMarked := m.setAccessed (m.descriptorAt a)
       u.descriptorAddr (loaded 38) = some b ∧ u.ss = segmentOf (codeMarked.descriptorAt b) (loaded 38) ∧
       let stackMarked := codeMarked.setAccessed (codeMarked.descriptorAt b)
       ∃ dataMarked : State,
         (if loaded 40 &&& 0xFFFC = 0 then u.ds.rights = .null ∧ dataMarked = stackMarked
          else ∃ c, u.descriptorAddr (loaded 40) = some c ∧
            u.ds = segmentOf (stackMarked.descriptorAt c) (loaded 40) ∧
            dataMarked = stackMarked.setAccessed (stackMarked.descriptorAt c)) ∧
         (if loaded 34 &&& 0xFFFC = 0 then u.es.rights = .null
          else ∃ c, u.descriptorAddr (loaded 34) = some c ∧
            u.es = segmentOf (dataMarked.descriptorAt c) (loaded 34))) ∧
     u.gdtr = s.gdtr ∧ u.idtr = s.idtr ∧ u.ext = s.ext ∧
     s.SameMemory u (s.savedCells ++ s.linkCells k t ++ u.taskDescriptors)) ∧
  (∀ (s u : State) (i : Instr) (off sel : Word) (a : Addr), s.InProtected → s.Names sel a →
     IsFarJump i s off sel ∨ IsFarCall i s off sel →
     let d := s.descriptorAt a
     let e : Option Word := some (sel &&& 0xFFFC)
     let level : Prop := max s.cpl (selectorRpl sel) ≤ d.dpl
     let switches (tsel : Word) (t : Descriptor) : Prop :=
       (t.present = false → Raises i s 11 (some (tsel &&& 0xFFFC))) ∧
       (t.present = true → t.limit.toNat < 0x2B → Raises i s 10 (some (tsel &&& 0xFFFC))) ∧
       (IsFarJump i s off sel → taskSwitch .jmp tsel t s.ip s = .ok () u → exec i s = .next { u with pfx := noPrefixes }) ∧
       (IsFarCall i s off sel → taskSwitch .call tsel t s.ip s = .ok () u → exec i s = .next { u with pfx := noPrefixes })
     (d.systemType = some 1 →
       (selectorTi sel = true ∨ ¬level → Raises i s 13 e) ∧ (selectorTi sel = false → level → switches sel d)) ∧
     (d.systemType = some 5 →
       (¬level → Raises i s 13 e) ∧ (level → d.present = false → Raises i s 11 e) ∧
       (level → d.present = true →
         let tsel := d.gateSelector
         let te : Option Word := some (tsel &&& 0xFFFC)
         (tsel &&& 0xFFFC = 0 ∨ selectorTi tsel = true ∨ s.descriptorAddr tsel = none → Raises i s 13 te) ∧
         (∀ b, s.Names tsel b → selectorTi tsel = false →
           ((s.descriptorAt b).systemType ≠ some 1 → Raises i s 13 te) ∧
           ((s.descriptorAt b).systemType = some 1 → switches tsel (s.descriptorAt b)))))) ∧
  (∀ (s : State) (v : Byte), s.msw.pe = true → s.InIdt v →
     let g := s.descriptorAt (s.gateAddr v)
     let tsel := g.gateSelector
     let te : Word := tsel &&& 0xFFFC
     g.systemType = some 5 → g.present = true →
     (te = 0 ∨ selectorTi tsel = true ∨ s.descriptorAddr tsel = none → s.EntryFails v 13 te) ∧
     (∀ b, s.Names tsel b → selectorTi tsel = false →
       let t := s.descriptorAt b
       (t.systemType ≠ some 1 → s.EntryFails v 13 te) ∧
       (t.systemType = some 1 → t.present = false → s.EntryFails v 11 te) ∧
       (t.systemType = some 1 → t.present = true → t.limit.toNat < 0x2B → s.EntryFails v 10 te))) ∧
  (∀ (s u : State) (v : Byte) (b : Addr), s.msw.pe = true → s.HasTaskGate v b →
     let tsel := (s.descriptorAt (s.gateAddr v)).gateSelector
     let t := s.descriptorAt b
     (∀ i, s.Ready → IsSoftwareInterrupt i s v → s.cpl ≤ (s.descriptorAt (s.gateAddr v)).dpl →
       taskSwitch .int tsel t s.ip s = .ok () u → exec i s = .next { u with pfx := noPrefixes }) ∧
     (taskSwitch .int tsel t s.curIp { s with pfx := noPrefixes } = .ok () u →
       takeException v none s = .next { u with trap := false } ∧
       ∀ err, u.pushStop (u.reg SP - 2) = none → takeException v (some err) s = .next {
         (u.store .ss (u.reg SP - 2) .word err).setReg SP (u.reg SP - 2) with
           stale := [], realQueue := none, repeating := none, trap := false })) ∧
  (∀ (s u : State), s.InProtected → s.flags.nt = true → s.crossesTop s.tr.base 1 = false →
     let tsel := s.readWord s.tr.base
     let e : Option Word := some (tsel &&& 0xFFFC)
     (tsel &&& 0xFFFC = 0 ∨ selectorTi tsel = true ∨ s.descriptorAddr tsel = none → Raises .iret s 10 e) ∧
     (∀ b, s.Names tsel b → selectorTi tsel = false →
       let t := s.descriptorAt b
       (t.systemType ≠ some 3 → Raises .iret s 10 e) ∧
       (t.systemType = some 3 → t.present = false → Raises .iret s 11 e) ∧
       (t.systemType = some 3 → t.present = true → t.limit.toNat < 0x2B → Raises .iret s 10 e) ∧
       (t.systemType = some 3 → taskSwitch .iret tsel t s.ip s = .ok () u →
         exec .iret s = .next { u with pfx := noPrefixes })))

/-! ## Processor control -/

/-- SAHF and POPF write the flags they name (40_data_transfer.md R229, R236); the flag instructions each write the flag
named; CLI and STI where CPL and IOPL allow them (46_processor_control.md R421 to R427). `inhibitIntr` is the optional
hold-off after STI (log entry 16). -/
def Obligations.FlagInstructions : Prop :=
  (∀ s : State, s.Ready →
     (let ah := s.reg8 AH
      WritesFlags .sahf s { s.flags with
       sf := ah.getLsbD 7, zf := ah.getLsbD 6, af := ah.getLsbD 4, pf := ah.getLsbD 2, cf := ah.getLsbD 0 } 0) ∧
     (s.accessStop .ss (s.reg SP) .word false = none →
       exec .popf s = .next { s.setReg SP (s.reg SP + 2) with
         flags := s.poppedFlags (s.load .ss (s.reg SP) .word), pfx := noPrefixes })) ∧
  (∀ (s : State), s.Ready →
     WritesFlags .clc s { s.flags with cf := false } 0 ∧ WritesFlags .cmc s { s.flags with cf := !s.flags.cf } 0 ∧
     WritesFlags .stc s { s.flags with cf := true } 0 ∧ WritesFlags .cld s { s.flags with df := false } 0 ∧
     WritesFlags .std s { s.flags with df := true } 0 ∧
     (s.msw.pe = false ∨ s.cpl ≤ s.flags.iopl.toNat →
       WritesFlags .cli s { s.flags with ie := false } 0 ∧
       exec .sti s = .next { s with
         flags := { s.flags with ie := true }, inhibitIntr := Config.stiInhibitsOneInstruction, pfx := noPrefixes }))

/-- 60_exceptions.md R560: the instructions that need CPL = 0 raise GeneralProtection(0) at any other. In real mode they
execute without any test, except LLDT and LTR, which are invalid opcodes there; of LMSW this leaves out the case
93_implementation_defined.md U15 leaves open, and of LLDT and LTR those that may have been decoded before LMSW set PE
(log entry 32). -/
def Obligations.PrivilegedInstructions : Prop :=
  ∀ (s : State) (m : MemOp) (rm : Rm),
    (s.InProtected → s.cpl ≠ 0 →
      (∀ i ∈ [Instr.lidt m, .lgdt m, .lmsw rm, .clts, .hlt], Raises i s 13 (some 0)) ∧
      (s.decodedReal = false → ∀ i ∈ [Instr.lldt rm, .ltr rm], Raises i s 13 (some 0))) ∧
    (s.msw.pe = false → Raises (.lldt rm) s 6 none ∧ Raises (.ltr rm) s 6 none ∧
      (s.Ready →
        (∀ i ∈ [Instr.clts, .hlt], ∃ t, exec i s = .next t ∧ t.ip = s.ip ∧ t.regs = s.regs) ∧
        (s.wordsStop m 3 false = none →
          ∀ i ∈ [Instr.lidt m, .lgdt m], ∃ t, exec i s = .next t ∧ t.ip = s.ip ∧ t.regs = s.regs) ∧
        (s.rmStop rm .word false = none → s.entersWithCpl (s.rmValue rm .word) = false →
          ∃ t, exec (.lmsw rm) s = .next t ∧ t.ip = s.ip ∧ t.regs = s.regs)))

/-- The instructions that need CPL <= IOPL raise GeneralProtection(0) in protected mode where it is not so, and so does
any of these with a LOCK prefix before it (60_exceptions.md R561, 46_processor_control.md R431). -/
def Obligations.IoPrivilege : Prop :=
  ∀ (s : State) (w : Width) (port : Byte), s.msw.pe = true → s.flags.iopl.toNat < s.cpl →
    (s.Ready → ∀ i ∈ [Instr.ins w, .inPort w port, .inDx w, .outs w, .outPort w port, .outDx w, .sti, .cli],
      Raises i s 13 (some 0)) ∧
    (s.pfx.lock = true → ∀ i ∈ [Instr.nop, .movs w, .ins w, .outs w, .clc, .pusha, .iret, .wait, .hlt],
      Raises i s 13 (some 0))

/-- WAIT (46_processor_control.md R432): vector 7 for TS = MP = 1, waiting at its own address while BUSY is active, a wait
that owes no single-step trap (log entry 26), vector 16 for an active ERROR (60_exceptions.md R529), otherwise nothing.
That vector 16 returns to the WAIT is general knowledge of the spec (R502, GK36), and that it is delivered as an external
interrupt, without error code (R531) and without double fault, is the model's reading (log entry 41, DEDUCED). ESC
(R433): vector 7 for EM or TS; otherwise, with BUSY and ERROR inactive and the operand's start accessible, the opcode,
mod, r/m and the operand's address go to the processor extension and nothing else changes but what it remembers of the
operand (log entry 25). The operand's words (R435, R519): one is transferred at a time; one that extends beyond offset
0xFFFF, or that its segment does not allow, leaves the segment overrun pending. -/
def Obligations.WaitAndEscape : Prop :=
  (∀ (s : State), s.Ready →
     (s.msw.ts = true → s.msw.mp = true → Raises .wait s 7 none) ∧
     (s.msw.ts = false ∨ s.msw.mp = false →
       (s.pins.busy = true → exec .wait s =
         .next { s with ip := s.curIp, ipWrap := false, trap := false, pfx := noPrefixes }) ∧
       (s.pins.busy = false → s.pins.error = true → exec .wait s = takeInterrupt 16 s.curIp true s) ∧
       (s.pins.busy = false → s.pins.error = false → DoesNothing .wait s))) ∧
  (∀ (s : State) (ttt lll : BitVec 3) (rm : Rm), s.Ready →
     (s.msw.em = true ∨ s.msw.ts = true → Raises (.esc ttt lll rm) s 7 none) ∧
     (s.msw.em = false → s.msw.ts = false → s.escStop ttt lll rm = none → s.pins.busy = false → s.pins.error = false →
       (∀ r, rm = .reg r → exec (.esc ttt lll rm) s =
         .next { s with bus := .escape ttt lll 3 r none :: s.bus, pfx := noPrefixes }) ∧
       (∀ m, rm = .mem m → exec (.esc ttt lll rm) s = .next { s with
         bus := .escape ttt lll (rmMode rm) (rmNumber rm) (some ((s.seg (s.eaSeg m)).base, s.ea m)) :: s.bus
         ext := some { segment := s.seg (s.eaSeg m), off := (s.ea m).toNat, toMemory := Config.escWritesMemory ttt lll }
         pfx := noPrefixes }))) ∧
  (∀ (s : State) (o : ExtOperand), s.pins.reset = false → s.pfx.len = 0 → s.event = some .operand → s.ext = some o →
     let off : Word := BitVec.ofNat 16 o.off
     let e : Option Stop := segmentStop s o.segment false off .word o.toMemory
     let asked : State := { s with
       curIp := s.ip, ticks := s.ticks + 1, pins := { s.pins with pereq := s.pins.pereq - 1 } }
     (0xFFFF ≤ o.off ∨ (∃ v err, e = some (.exc v err)) → step s = .next { asked with
       ext := none, overrunPending := s.overrunPending || !s.shutdown
       pereqInhibited := s.pereqInhibited || s.shutdown }) ∧
     (o.off < 0xFFFF → e = none → ∃ t, step s = .next t ∧ t.ext = some { o with off := o.off + 2 } ∧ t.regs = s.regs ∧
       t.flags = s.flags ∧ t.ip = s.ip ∧ t.pins = asked.pins ∧
       s.SameMemory t (if o.toMemory then s.cells o.segment off .word else [])))

/-! ## Protection control -/

/-- LMSW, SMSW, CLTS: PE is never cleared (47_protection_control.md R448, R449, 46_processor_control.md R434). Where
LMSW sets PE the instructions behind it may be queued as decoded in real mode (20_memory.md R141; log entry 32). -/
def Obligations.MachineStatusWord : Prop :=
  ∀ (s : State), s.Ready →
    (∀ rm, s.rmStop rm .word true = none → WritesRm (.smsw rm) s rm .word s.msw.image s.flags 0) ∧
    (s.cpl = 0 → exec .clts s = .next { s with msw := { s.msw with ts := false }, pfx := noPrefixes }) ∧
    (∀ rm, s.cpl = 0 → s.rmStop rm .word false = none →
      let v : Word := s.rmValue rm .word
      (s.msw.pe = true ∨ v.getLsbD 0 = false ∨ s.cs.sel.extractLsb' 0 2 = 0) →
      exec (.lmsw rm) s = .next { s with
        msw := { pe := s.msw.pe || v.getLsbD 0, mp := v.getLsbD 1, em := v.getLsbD 2, ts := v.getLsbD 3 }
        realQueue := if s.msw.pe = false ∧ v.getLsbD 0 = true then some { off := s.ip, decoded := true }
          else s.realQueue
        pfx := noPrefixes })

/-- LGDT and LIDT at CPL 0, SGDT and SIDT at any level: the limit word, then the three bytes of the base; the sixth byte
stored is a free value (47_protection_control.md R440 to R443, log entry 23). The stored bytes are said where they are
RAM; nothing else changes. -/
def Obligations.TableRegisters : Prop :=
  ∀ (s : State) (m : MemOp), s.Ready →
    let b : SReg := s.eaSeg m
    let at_ (k : Nat) : Word := s.ea m + BitVec.ofNat 16 k
    (s.cpl = 0 → s.wordsStop m 3 false = none →
      let t : TableReg := { limit := s.load b (at_ 0) .word
                            base := lowByte (s.load b (at_ 4) .word) ++ (show Word from s.load b (at_ 2) .word) }
      exec (.lgdt m) s = .next { s with gdtr := t, pfx := noPrefixes } ∧
      exec (.lidt m) s = .next { s with idtr := t, pfx := noPrefixes }) ∧
    (s.wordsStop m 3 true = none → Memory.wf s.mem = true →
      let cells := (List.range 3).flatMap fun k => s.cells (s.seg b) (at_ (2 * k)) .word
      ∀ p ∈ [(Instr.sgdt m, s.gdtr), (.sidt m, s.idtr)], ∃ t, exec p.1 s = .next t ∧
        t = { s with mem := t.mem, stale := t.stale, free := s.free + 1, pfx := noPrefixes } ∧
        ((∀ a ∈ cells, s.isRam a = true) → t.load b (at_ 0) .word = p.2.limit ∧
          t.load b (at_ 2) .word = p.2.base.setWidth 16 ∧
          lowByte (t.load b (at_ 4) .word) = p.2.base.extractLsb' 16 8) ∧
        s.SameMemory t cells)

/-- LLDT, LTR at CPL 0 and SLDT, STR at any level, in protected mode (47_protection_control.md R444 to R447): a null
selector leaves no LDT; a present LDT or available TSS descriptor is loaded, the TSS marked busy; one that is not
present is vector 11, every other selector vector 13. -/
def Obligations.SystemRegisters : Prop :=
  ∀ (s : State) (rm : Rm), s.ReadyProtected →
    (s.rmStop rm .word true = none → WritesRm (.sldt rm) s rm .word s.ldtr.sel s.flags 0 ∧
      WritesRm (.str rm) s rm .word s.tr.sel s.flags 0) ∧
    (s.cpl = 0 → s.rmStop rm .word false = none →
      let sel : Word := s.rmValue rm .word
      (sel &&& 0xFFFC = 0 →
        exec (.lldt rm) s = .next { s with ldtr := { s.ldtr with sel := sel, valid := false }, pfx := noPrefixes } ∧
        Raises (.ltr rm) s 13 (some 0)) ∧
      (sel &&& 0xFFFC ≠ 0 → selectorTi sel = true ∨ s.descriptorAddr sel = none →
        Raises (.lldt rm) s 13 (some (sel &&& 0xFFFC)) ∧ Raises (.ltr rm) s 13 (some (sel &&& 0xFFFC))) ∧
      (∀ a, sel &&& 0xFFFC ≠ 0 → selectorTi sel = false → s.descriptorAddr sel = some a → s.crossesTop a 4 = false →
        let d := s.descriptorAt a
        (d.systemType ≠ some 2 → Raises (.lldt rm) s 13 (some (sel &&& 0xFFFC))) ∧
        (d.systemType ≠ some 1 → Raises (.ltr rm) s 13 (some (sel &&& 0xFFFC))) ∧
        (d.systemType = some 2 → d.present = false → Raises (.lldt rm) s 11 (some (sel &&& 0xFFFC))) ∧
        (d.systemType = some 1 → d.present = false → Raises (.ltr rm) s 11 (some (sel &&& 0xFFFC))) ∧
        (d.systemType = some 2 → d.present = true → exec (.lldt rm) s = .next { s with
          ldtr := { sel := sel, base := d.base, limit := d.limit, valid := true }, pfx := noPrefixes }) ∧
        (d.systemType = some 1 → d.present = true → ∃ t, exec (.ltr rm) s = .next t ∧
          t.tr = { sel := sel, base := d.base, limit := d.limit } ∧ t.regs = s.regs ∧ t.flags = s.flags ∧
          (Memory.wf s.mem = true → s.isRam (s.physical (a + 5)) = true → (t.descriptorAt a).systemType = some 3) ∧
          s.SameMemory t [s.physical (a + 5)])))

/-- VERR, VERW, LAR and LSL in protected mode (47_protection_control.md R450 to R453): a selector that fails the test
clears ZF and nothing else; one that passes sets ZF, sets the accessed bit of a segment descriptor, and LAR and LSL load
their register. -/
def Obligations.PointerTests : Prop :=
  ∀ (s : State) (rm : Rm) (r : Reg), s.ReadyProtected → s.rmStop rm .word false = none →
    let sel : Word := s.rmValue rm .word
    let level (d : Descriptor) : Prop := d.isConforming = true ∨ max s.cpl (selectorRpl sel) ≤ d.dpl
    let typeIn (d : Descriptor) (ts : List Nat) : Prop := d.isSegment = true ∨ ∃ t ∈ ts, d.systemType = some t
    let cleared : State := { s with flags := { s.flags with zf := false }, pfx := noPrefixes }
    (sel &&& 0xFFFC = 0 ∨ s.descriptorAddr sel = none →
      ∀ i ∈ [Instr.verr rm, .verw rm, .lar r rm, .lsl r rm], exec i s = .next cleared) ∧
    (∀ a, sel &&& 0xFFFC ≠ 0 → s.descriptorAddr sel = some a → s.crossesTop a 4 = false →
      let d := s.descriptorAt a
      ∀ p ∈ [(Instr.verr rm, d.isReadable = true ∧ level d, ([] : List (Reg × Word))),
          (.verw rm, d.isWritableData = true ∧ max s.cpl (selectorRpl sel) ≤ d.dpl, []),
          (.lar r rm, typeIn d [1, 2, 3, 4, 5] ∧ level d,
            [(r, concatBytes (if d.isSegment then d.ar ||| 1 else d.ar) 0)]),
          (.lsl r rm, typeIn d [1, 2, 3] ∧ level d, [(r, d.limit)])],
        (¬p.2.1 → exec p.1 s = .next cleared) ∧
        (p.2.1 → ∃ t, exec p.1 s = .next t ∧ t.flags = { s.flags with zf := true } ∧
          (∀ q ∈ p.2.2, t.reg q.1 = q.2) ∧ s.SameRegs t (p.2.2.map Prod.fst) ∧
          (Memory.wf s.mem = true → s.isRam (s.physical (a + 5)) = true → d.isSegment = true →
            t.readByte (a + 5) = d.ar ||| 1) ∧
          s.SameMemory t [s.physical (a + 5)]))

/-- ARPL in protected mode (47_protection_control.md R454): the RPL of the selector is raised to that of the register.
The instructions of protected mode raise vector 6 in real mode (R439, 60_exceptions.md R565 note 1); one that may have
been decoded before LMSW set PE is an invalid opcode by a free choice (20_memory.md R141, 70_reset_and_hazards.md R614;
log entry 32). -/
def Obligations.AdjustRpl : Prop :=
  (∀ (s : State) (rm : Rm) (r : Reg), s.ReadyProtected → s.rmStop rm .word false = none →
     let d : Word := s.rmValue rm .word
     (selectorRpl d < selectorRpl (s.reg r) → s.rmStop rm .word true = none →
       WritesRm (.arpl rm r) s rm .word ((d &&& 0xFFFC) ||| (s.reg r &&& 3)) { s.flags with zf := true } 0) ∧
     (selectorRpl (s.reg r) ≤ selectorRpl d → WritesFlags (.arpl rm r) s { s.flags with zf := false } 0)) ∧
  (∀ (s : State) (rm : Rm) (r : Reg),
     ∀ i ∈ [Instr.lldt rm, .sldt rm, .ltr rm, .str rm, .lar r rm, .lsl r rm, .verr rm, .verw rm, .arpl rm r],
       (s.msw.pe = false → Raises i s 6 none) ∧
       (s.msw.pe = true → s.decodedReal = true →
         if Config.freeBit s.free then exec i s = takeException 6 none { s with free := s.free + 1 }
         else exec i s = exec i { s with
           free := s.free + 1, realQueue := s.realQueue.map fun q => { q with decoded := false } }))
end

