-- ==== Sys2Proof/Laws/Decode.lean ====
section
/-! SUPPORT. What the decoder reads back of the mod reg r/m byte, the displacement and the words the encoder writes. -/

namespace Sys2Proof

@[simp] theorem modField_modrm (mod : BitVec 2) (reg rm : Reg) : modField (modrmByte mod reg rm) = mod := by
  revert mod reg rm
  decide +kernel

@[simp] theorem regField_modrm (mod : BitVec 2) (reg rm : Reg) : regField (modrmByte mod reg rm) = reg := by
  revert mod reg rm
  decide +kernel

@[simp] theorem rmField_modrm (mod : BitVec 2) (reg rm : Reg) : rmField (modrmByte mod reg rm) = rm := by
  revert mod reg rm
  decide +kernel

/-- The bytes of a word give it back. -/
@[simp] theorem concat_high_low (v : Word) : concatBytes (highByte v) (lowByte v) = v := by
  apply BitVec.eq_of_getLsbD_eq
  intro i hi
  simp only [concatBytes, highByte, lowByte, BitVec.getLsbD_append, BitVec.getLsbD_extractLsb']
  by_cases h : i < 8
  · simp [h]
  · have h' : i - 8 < 8 := by omega
    have e : 8 + (i - 8) = i := by omega
    simp [h, h', e]

/-- The bytes of two bytes joined are those bytes. -/
@[simp] theorem low_concat (h l : Byte) : lowByte (concatBytes h l) = l := by
  apply BitVec.eq_of_getLsbD_eq
  intro i hi
  rw [BitVec.getLsbD_extractLsb', BitVec.getLsbD_append]
  simp [hi]

@[simp] theorem high_concat (h l : Byte) : highByte (concatBytes h l) = h := by
  apply BitVec.eq_of_getLsbD_eq
  intro i hi
  rw [BitVec.getLsbD_extractLsb', BitVec.getLsbD_append]
  simp [hi]

/-- An r/m operand is read back from its mod reg r/m byte and displacement. -/
theorem decodeRm_encode (rm : Rm) (h : rm.wf = true) (reg : Reg) (rest : List Byte) :
    ∃ mod r tail, rm.encode reg ++ rest = modrmByte mod reg r :: tail ∧ decodeRm mod r tail = some (rm, rest) := by
  cases rm with
  | reg r => exact ⟨3, r, rest, rfl, rfl⟩
  | mem m =>
    cases m with
    | base r =>
      refine ⟨0, r, rest, rfl, ?_⟩
      simp_all [Rm.wf, MemOp.wf, decodeRm, decodeMem]
    | base8 r d => exact ⟨1, r, d :: rest, rfl, rfl⟩
    | base16 r d => exact ⟨2, r, lowByte d :: highByte d :: rest, rfl, by simp [decodeRm, decodeMem]⟩
    | direct d => exact ⟨0, 6, lowByte d :: highByte d :: rest, rfl, by simp [decodeRm, decodeMem]⟩

end Sys2Proof
end

