-- ==== Sys2Proof/Laws/Effects.lean ====
section
/-! SUPPORT. What each way of building an effect does, and what becomes of an effect at the end of an instruction. -/

namespace Sys2Proof.Machine

@[simp] theorem pure_apply {α : Type} (a : α) (s : State) : (pure a : M α) s = .ok a s := rfl

/-- An effect after another: the first stop ends both. -/
theorem bind_apply {α β : Type} (m : M α) (f : α → M β) (s : State) :
    (m >>= f) s = match m s with
      | .ok a t => f a t
      | .error e t => .error e t := by
  change EStateM.bind m f s = _
  unfold EStateM.bind
  cases m s <;> rfl

theorem bind_ok {α β : Type} {m : M α} {f : α → M β} {s t : State} {a : α} (h : m s = .ok a t) :
    (m >>= f) s = f a t := by rw [bind_apply, h]

theorem bind_error {α β : Type} {m : M α} {f : α → M β} {s t : State} {e : Stop} (h : m s = .error e t) :
    (m >>= f) s = .error e t := by rw [bind_apply, h]

@[simp] theorem look_bind {α β : Type} (g : State → α) (f : α → M β) (s : State) : (look g >>= f) s = f (g s) s := rfl

@[simp] theorem update_bind {β : Type} (g : State → State) (f : Unit → M β) (s : State) :
    (update g >>= f) s = f () (g s) := rfl

@[simp] theorem draw_bind {β : Type} (k : Nat) (f : Nat → M β) (s : State) :
    (draw k >>= f) s = f s.free { s with free := s.free + k } := rfl

@[simp] theorem stop_bind {α β : Type} (e : Stop) (f : α → M β) (s : State) : ((stop e : M α) >>= f) s = .error e s := rfl

@[simp] theorem look_apply {α : Type} (g : State → α) (s : State) : look g s = .ok (g s) s := rfl

@[simp] theorem update_apply (g : State → State) (s : State) : update g s = .ok () (g s) := rfl

@[simp] theorem draw_apply (k : Nat) (s : State) : draw k s = .ok s.free { s with free := s.free + k } := rfl

@[simp] theorem stop_apply {α : Type} (e : Stop) (s : State) : (stop e : M α) s = .error e s := rfl

theorem require_true {c : State → Bool} {e : Stop} {s : State} (h : c s = true) : require c e s = .ok () s := by
  simp [require, h]

theorem require_false {c : State → Bool} {e : Stop} {s : State} (h : c s = false) : require c e s = .error e s := by
  simp [require, h]

theorem check_none {c : State → Option Stop} {s : State} (h : c s = none) : check c s = .ok () s := by
  simp [check, h]

theorem check_some {c : State → Option Stop} {s : State} {e : Stop} (h : c s = some e) : check c s = .error e s := by
  simp [check, h]

theorem require_bind {β : Type} (c : State → Bool) (e : Stop) (f : Unit → M β) (s : State) :
    (require c e >>= f) s = if c s then f () s else .error e s := by
  rw [bind_apply, require]; cases c s <;> rfl

theorem check_bind {β : Type} (c : State → Option Stop) (f : Unit → M β) (s : State) :
    (check c >>= f) s = match c s with
      | none => f () s
      | some e => .error e s := by
  rw [bind_apply, check]; cases c s <;> rfl

@[simp] theorem settle_ok (s : State) : settle (.ok () s) = .next s.endInstruction := rfl

@[simp] theorem settle_shutdown (s : State) : settle (.error .shutdown s) = .next s.enterShutdown := rfl

theorem settle_exc {v : Byte} (err : Option Word) (s : State) (h : v ≠ 16) :
    settle (.error (.exc v err) s) = takeException v err s := if_neg h

/-- An instruction without a repeat prefix, whose LOCK prefix is allowed, does what its effect does. -/
theorem perform_eq {m : M Unit} {s : State} (hr : s.pfx.rep = none) (hl : s.lockAllowed = true) :
    perform m s = settle (m s) := by
  simp [perform, hr, hl]

/-- The instruction completes where its effect does. -/
theorem perform_ok {m : M Unit} {s t : State} (hr : s.pfx.rep = none) (hl : s.lockAllowed = true)
    (h : m s = .ok () t) : perform m s = .next t.endInstruction := by
  rw [perform_eq hr hl, h, settle_ok]

/-- A LOCK prefix that is not allowed is GeneralProtection(0). -/
theorem perform_lock {m : M Unit} {s : State} (hl : s.lockAllowed = false) :
    perform m s = takeException 13 (some 0) s := by
  simp [perform, hl, settle]

theorem performString_eq {m : M Unit} {s : State} (hl : s.lockAllowed = true) : performString m s = settle (m s) := by
  simp [performString, hl]

theorem performProtected_eq {m : M Unit} {s : State} (h : s.msw.pe = true) (hd : s.decodedReal = false) :
    performProtected m s = perform m s := by
  simp [performProtected, h, hd]

/-- Right after protected mode was entered the instruction may have been decoded in real mode. -/
theorem performProtected_queued {m : M Unit} {s : State} (h : s.msw.pe = true) (hd : s.decodedReal = true) :
    performProtected m s =
      if Config.freeBit s.free then takeException 6 none { s with free := s.free + 1 }
      else perform m { s.noneDecoded with free := s.free + 1 } := by
  simp [performProtected, h, hd]

/-- Real mode does not have the instruction: vector 6. -/
theorem performProtected_real {m : M Unit} {s : State} (h : s.msw.pe = false) :
    performProtected m s = takeException 6 none s := by
  simp [performProtected, h]

/-! The shared operations, each said once. -/

/-- `SegRead`: the operand, or the reason it may not be read. -/
theorem segRead_eq (r : SReg) (off : Word) (w : Width) (s : State) :
    segRead r off w s = match s.accessStop r off w false with
      | none => .ok (s.load r off w) s
      | some e => .error e s := by
  simp only [segRead, check_bind]; cases s.accessStop r off w false <;> rfl

/-- `SegWrite`: the operand stored, or the reason it may not be written. -/
theorem segWrite_eq (r : SReg) (off : Word) (w : Width) (v : BitVec w.bits) (s : State) :
    segWrite r off w v s = match s.accessStop r off w true with
      | none => .ok () (s.store r off w v)
      | some e => .error e s := by
  simp only [segWrite, check_bind]; cases s.accessStop r off w true <;> rfl

/-- `RM_read`. -/
theorem readRm_eq (rm : Rm) (w : Width) (s : State) :
    readRm rm w s = match s.rmStop rm w false with
      | none => .ok (s.rmValue rm w) s
      | some e => .error e s := by
  simp only [readRm, check_bind]; cases s.rmStop rm w false <;> rfl

/-- `RM_write`. -/
theorem writeRm_eq (rm : Rm) (w : Width) (v : BitVec w.bits) (s : State) :
    writeRm rm w v s = match s.rmStop rm w true with
      | none => .ok () (s.setRm rm w v)
      | some e => .error e s := by
  simp only [writeRm, check_bind]; cases s.rmStop rm w true <;> rfl

/-- `Push16`. -/
theorem push16_eq (v : Word) (s : State) :
    push16 v s = match s.pushStop (s.reg SP - 2) with
      | none => .ok () ((s.store .ss (s.reg SP - 2) .word v).setReg SP (s.reg SP - 2))
      | some e => .error e s := by
  simp only [push16, check_bind]; cases s.pushStop (s.reg SP - 2) <;> rfl

/-- `Pop16`. -/
theorem pop16_eq (s : State) :
    pop16 s = match s.accessStop .ss (s.reg SP) .word false with
      | none => .ok (s.load .ss (s.reg SP) .word) (s.setReg SP (s.reg SP + 2))
      | some e => .error e s := by
  simp only [pop16, bind_apply, look_apply, segRead_eq]
  cases s.accessStop .ss (s.reg SP) .word false <;> rfl

/-- Where the pushes do not wrap the stack, and in protected mode always, `requireStack` does nothing. -/
theorem requireStack_eq {count : Nat} {s : State} (h : s.stackWraps count = false) :
    requireStack count s = .ok () s := by
  simp [requireStack, h]

/-- A push that would wrap is shutdown. -/
theorem requireStack_wraps {count : Nat} {s : State} (h : s.stackWraps count = true) :
    requireStack count s = .error .shutdown (s.wrapStack count) := by
  simp [requireStack, h]

/-- Where a word may be pushed below SP, one push does not wrap. -/
theorem State.stackWraps_one {s : State} (h : s.pushStop (s.reg SP - 2) = none) : s.stackWraps 1 = false := by
  cases hm : s.msw.pe
  · have h1 : (s.reg SP).toNat ≠ 1 := by
      intro e
      have e' : s.reg SP = 1#16 := BitVec.eq_of_toNat_eq e
      simp [State.pushStop, hm, e'] at h
    simp only [State.stackWraps, hm, Bool.not_false, Bool.true_and, Bool.and_eq_false_iff, beq_eq_false_iff_ne,
      decide_eq_false_iff_not]
    omega
  · simp [State.stackWraps, hm]

/-! Ports. -/

@[simp] theorem splitsPort_byte (port : Word) : splitsPort port .byte = false := rfl

@[simp] theorem splitsPort_word (port : Word) : splitsPort port .word = port.getLsbD 0 := rfl

/-- A transfer at a port is one bus operation, or for a word at an odd port the low byte there and then the high byte at
the next port. -/
theorem portOperations_eq (operation : Word → Width → Word → BusEvent) (port : Word) (w : Width) (v : Word) :
    portOperations operation port w v =
      if splitsPort port w then
        [operation (port + 1) .byte (zeroExtend16 (highByte v)), operation port .byte (zeroExtend16 (lowByte v))]
      else [operation port w v] := rfl

/-- A read of a port draws as many free values as it has bus operations. -/
theorem portOperations_length (operation : Word → Width → Word → BusEvent) (port : Word) (w : Width) (v : Word) :
    (portOperations operation port w v).length = portDraws port w := by
  unfold portOperations portDraws; split <;> rfl

/-- `IoRead`: the devices' value, its bus operations recorded. -/
@[simp] theorem ioRead_eq (port : Word) (w : Width) (s : State) :
    ioRead port w s = .ok (portValue port w s.free) { s with
      free := s.free + portDraws port w
      bus := portOperations .ioRead port w (asWord w (portValue port w s.free)) ++ s.bus } := rfl

/-- A far pointer in memory. -/
theorem readPointer_eq (m : MemOp) (s : State) :
    readPointer m s = match s.wordsStop m 2 false with
      | none => .ok (s.memWord m 0, s.memWord m 1) s
      | some e => .error e s := by
  simp only [readPointer, check_bind]; cases s.wordsStop m 2 false <;> rfl

/-- A descriptor: the selector lies outside its table, the descriptor ends beyond the physical space, or it is read. -/
theorem readDescriptor_eq (sel : Word) (miss : Stop) (s : State) :
    readDescriptor sel miss s = match s.descriptorAddr sel with
      | none => .error miss s
      | some a => if s.crossesTop a 4 then .error (.fault .physicalOverrun) s else .ok (s.descriptorAt a) s := by
  simp only [readDescriptor, look_bind]
  cases s.descriptorAddr sel with
  | none => rfl
  | some a =>
    simp only [readDescriptorAt, require_bind, look_apply]
    cases s.crossesTop a 4 <;> rfl

/-- A segment load in real mode: no memory is read and no exception is possible. -/
theorem loadSeg_real (r : SReg) (sel : Word) (s : State) (h : s.msw.pe = false) :
    loadSeg r sel s = .ok () (s.setSeg r (realSegReg sel)) := by
  simp [loadSeg, h]

end Sys2Proof.Machine
end

