-- ==== Sys2Proof/Laws/State.lean ====
section
/-! SUPPORT. What each update of the state leaves unchanged, field by field, and what it sets. -/

namespace Sys2Proof.Machine

/-! `setReg`. -/

@[simp] theorem State.setReg_ip (s : State) (r : Reg) (v : Word) : (s.setReg r v).ip = s.ip := rfl
@[simp] theorem State.setReg_flags (s : State) (r : Reg) (v : Word) : (s.setReg r v).flags = s.flags := rfl
@[simp] theorem State.setReg_msw (s : State) (r : Reg) (v : Word) : (s.setReg r v).msw = s.msw := rfl
@[simp] theorem State.setReg_es (s : State) (r : Reg) (v : Word) : (s.setReg r v).es = s.es := rfl
@[simp] theorem State.setReg_cs (s : State) (r : Reg) (v : Word) : (s.setReg r v).cs = s.cs := rfl
@[simp] theorem State.setReg_ss (s : State) (r : Reg) (v : Word) : (s.setReg r v).ss = s.ss := rfl
@[simp] theorem State.setReg_ds (s : State) (r : Reg) (v : Word) : (s.setReg r v).ds = s.ds := rfl
@[simp] theorem State.setReg_gdtr (s : State) (r : Reg) (v : Word) : (s.setReg r v).gdtr = s.gdtr := rfl
@[simp] theorem State.setReg_idtr (s : State) (r : Reg) (v : Word) : (s.setReg r v).idtr = s.idtr := rfl
@[simp] theorem State.setReg_ldtr (s : State) (r : Reg) (v : Word) : (s.setReg r v).ldtr = s.ldtr := rfl
@[simp] theorem State.setReg_tr (s : State) (r : Reg) (v : Word) : (s.setReg r v).tr = s.tr := rfl
@[simp] theorem State.setReg_mem (s : State) (r : Reg) (v : Word) : (s.setReg r v).mem = s.mem := rfl
@[simp] theorem State.setReg_stale (s : State) (r : Reg) (v : Word) : (s.setReg r v).stale = s.stale := rfl
@[simp] theorem State.setReg_realQueue (s : State) (r : Reg) (v : Word) : (s.setReg r v).realQueue = s.realQueue := rfl
@[simp] theorem State.setReg_repeating (s : State) (r : Reg) (v : Word) : (s.setReg r v).repeating = s.repeating := rfl
@[simp] theorem State.setReg_nmiInService (s : State) (r : Reg) (v : Word) : (s.setReg r v).nmiInService = s.nmiInService := rfl
@[simp] theorem State.setReg_nmiPending (s : State) (r : Reg) (v : Word) : (s.setReg r v).nmiPending = s.nmiPending := rfl
@[simp] theorem State.setReg_overrunPending (s : State) (r : Reg) (v : Word) : (s.setReg r v).overrunPending = s.overrunPending := rfl
@[simp] theorem State.setReg_pereqInhibited (s : State) (r : Reg) (v : Word) : (s.setReg r v).pereqInhibited = s.pereqInhibited := rfl
@[simp] theorem State.setReg_halted (s : State) (r : Reg) (v : Word) : (s.setReg r v).halted = s.halted := rfl
@[simp] theorem State.setReg_shutdown (s : State) (r : Reg) (v : Word) : (s.setReg r v).shutdown = s.shutdown := rfl
@[simp] theorem State.setReg_ext (s : State) (r : Reg) (v : Word) : (s.setReg r v).ext = s.ext := rfl
@[simp] theorem State.setReg_trap (s : State) (r : Reg) (v : Word) : (s.setReg r v).trap = s.trap := rfl
@[simp] theorem State.setReg_inhibitAll (s : State) (r : Reg) (v : Word) : (s.setReg r v).inhibitAll = s.inhibitAll := rfl
@[simp] theorem State.setReg_inhibitIntr (s : State) (r : Reg) (v : Word) : (s.setReg r v).inhibitIntr = s.inhibitIntr := rfl
@[simp] theorem State.setReg_pfx (s : State) (r : Reg) (v : Word) : (s.setReg r v).pfx = s.pfx := rfl
@[simp] theorem State.setReg_curIp (s : State) (r : Reg) (v : Word) : (s.setReg r v).curIp = s.curIp := rfl
@[simp] theorem State.setReg_ipWrap (s : State) (r : Reg) (v : Word) : (s.setReg r v).ipWrap = s.ipWrap := rfl
@[simp] theorem State.setReg_pins (s : State) (r : Reg) (v : Word) : (s.setReg r v).pins = s.pins := rfl
@[simp] theorem State.setReg_board (s : State) (r : Reg) (v : Word) : (s.setReg r v).board = s.board := rfl
@[simp] theorem State.setReg_bus (s : State) (r : Reg) (v : Word) : (s.setReg r v).bus = s.bus := rfl
@[simp] theorem State.setReg_free (s : State) (r : Reg) (v : Word) : (s.setReg r v).free = s.free := rfl
@[simp] theorem State.setReg_ticks (s : State) (r : Reg) (v : Word) : (s.setReg r v).ticks = s.ticks := rfl

/-! `setReg8`. -/

@[simp] theorem State.setReg8_ip (s : State) (r : Reg) (v : Byte) : (s.setReg8 r v).ip = s.ip := by unfold State.setReg8; split <;> rfl
@[simp] theorem State.setReg8_flags (s : State) (r : Reg) (v : Byte) : (s.setReg8 r v).flags = s.flags := by unfold State.setReg8; split <;> rfl
@[simp] theorem State.setReg8_msw (s : State) (r : Reg) (v : Byte) : (s.setReg8 r v).msw = s.msw := by unfold State.setReg8; split <;> rfl
@[simp] theorem State.setReg8_es (s : State) (r : Reg) (v : Byte) : (s.setReg8 r v).es = s.es := by unfold State.setReg8; split <;> rfl
@[simp] theorem State.setReg8_cs (s : State) (r : Reg) (v : Byte) : (s.setReg8 r v).cs = s.cs := by unfold State.setReg8; split <;> rfl
@[simp] theorem State.setReg8_ss (s : State) (r : Reg) (v : Byte) : (s.setReg8 r v).ss = s.ss := by unfold State.setReg8; split <;> rfl
@[simp] theorem State.setReg8_ds (s : State) (r : Reg) (v : Byte) : (s.setReg8 r v).ds = s.ds := by unfold State.setReg8; split <;> rfl
@[simp] theorem State.setReg8_gdtr (s : State) (r : Reg) (v : Byte) : (s.setReg8 r v).gdtr = s.gdtr := by unfold State.setReg8; split <;> rfl
@[simp] theorem State.setReg8_idtr (s : State) (r : Reg) (v : Byte) : (s.setReg8 r v).idtr = s.idtr := by unfold State.setReg8; split <;> rfl
@[simp] theorem State.setReg8_ldtr (s : State) (r : Reg) (v : Byte) : (s.setReg8 r v).ldtr = s.ldtr := by unfold State.setReg8; split <;> rfl
@[simp] theorem State.setReg8_tr (s : State) (r : Reg) (v : Byte) : (s.setReg8 r v).tr = s.tr := by unfold State.setReg8; split <;> rfl
@[simp] theorem State.setReg8_mem (s : State) (r : Reg) (v : Byte) : (s.setReg8 r v).mem = s.mem := by unfold State.setReg8; split <;> rfl
@[simp] theorem State.setReg8_stale (s : State) (r : Reg) (v : Byte) : (s.setReg8 r v).stale = s.stale := by unfold State.setReg8; split <;> rfl
@[simp] theorem State.setReg8_realQueue (s : State) (r : Reg) (v : Byte) : (s.setReg8 r v).realQueue = s.realQueue := by unfold State.setReg8; split <;> rfl
@[simp] theorem State.setReg8_repeating (s : State) (r : Reg) (v : Byte) : (s.setReg8 r v).repeating = s.repeating := by unfold State.setReg8; split <;> rfl
@[simp] theorem State.setReg8_nmiInService (s : State) (r : Reg) (v : Byte) : (s.setReg8 r v).nmiInService = s.nmiInService := by unfold State.setReg8; split <;> rfl
@[simp] theorem State.setReg8_nmiPending (s : State) (r : Reg) (v : Byte) : (s.setReg8 r v).nmiPending = s.nmiPending := by unfold State.setReg8; split <;> rfl
@[simp] theorem State.setReg8_overrunPending (s : State) (r : Reg) (v : Byte) : (s.setReg8 r v).overrunPending = s.overrunPending := by unfold State.setReg8; split <;> rfl
@[simp] theorem State.setReg8_pereqInhibited (s : State) (r : Reg) (v : Byte) : (s.setReg8 r v).pereqInhibited = s.pereqInhibited := by unfold State.setReg8; split <;> rfl
@[simp] theorem State.setReg8_halted (s : State) (r : Reg) (v : Byte) : (s.setReg8 r v).halted = s.halted := by unfold State.setReg8; split <;> rfl
@[simp] theorem State.setReg8_shutdown (s : State) (r : Reg) (v : Byte) : (s.setReg8 r v).shutdown = s.shutdown := by unfold State.setReg8; split <;> rfl
@[simp] theorem State.setReg8_ext (s : State) (r : Reg) (v : Byte) : (s.setReg8 r v).ext = s.ext := by unfold State.setReg8; split <;> rfl
@[simp] theorem State.setReg8_trap (s : State) (r : Reg) (v : Byte) : (s.setReg8 r v).trap = s.trap := by unfold State.setReg8; split <;> rfl
@[simp] theorem State.setReg8_inhibitAll (s : State) (r : Reg) (v : Byte) : (s.setReg8 r v).inhibitAll = s.inhibitAll := by unfold State.setReg8; split <;> rfl
@[simp] theorem State.setReg8_inhibitIntr (s : State) (r : Reg) (v : Byte) : (s.setReg8 r v).inhibitIntr = s.inhibitIntr := by unfold State.setReg8; split <;> rfl
@[simp] theorem State.setReg8_pfx (s : State) (r : Reg) (v : Byte) : (s.setReg8 r v).pfx = s.pfx := by unfold State.setReg8; split <;> rfl
@[simp] theorem State.setReg8_curIp (s : State) (r : Reg) (v : Byte) : (s.setReg8 r v).curIp = s.curIp := by unfold State.setReg8; split <;> rfl
@[simp] theorem State.setReg8_ipWrap (s : State) (r : Reg) (v : Byte) : (s.setReg8 r v).ipWrap = s.ipWrap := by unfold State.setReg8; split <;> rfl
@[simp] theorem State.setReg8_pins (s : State) (r : Reg) (v : Byte) : (s.setReg8 r v).pins = s.pins := by unfold State.setReg8; split <;> rfl
@[simp] theorem State.setReg8_board (s : State) (r : Reg) (v : Byte) : (s.setReg8 r v).board = s.board := by unfold State.setReg8; split <;> rfl
@[simp] theorem State.setReg8_bus (s : State) (r : Reg) (v : Byte) : (s.setReg8 r v).bus = s.bus := by unfold State.setReg8; split <;> rfl
@[simp] theorem State.setReg8_free (s : State) (r : Reg) (v : Byte) : (s.setReg8 r v).free = s.free := by unfold State.setReg8; split <;> rfl
@[simp] theorem State.setReg8_ticks (s : State) (r : Reg) (v : Byte) : (s.setReg8 r v).ticks = s.ticks := by unfold State.setReg8; split <;> rfl

/-! `putReg`. -/

@[simp] theorem State.putReg_ip (s : State) (w : Width) (r : Reg) (v : BitVec w.bits) : (s.putReg w r v).ip = s.ip := by cases w <;> simp [State.putReg]
@[simp] theorem State.putReg_flags (s : State) (w : Width) (r : Reg) (v : BitVec w.bits) : (s.putReg w r v).flags = s.flags := by cases w <;> simp [State.putReg]
@[simp] theorem State.putReg_msw (s : State) (w : Width) (r : Reg) (v : BitVec w.bits) : (s.putReg w r v).msw = s.msw := by cases w <;> simp [State.putReg]
@[simp] theorem State.putReg_es (s : State) (w : Width) (r : Reg) (v : BitVec w.bits) : (s.putReg w r v).es = s.es := by cases w <;> simp [State.putReg]
@[simp] theorem State.putReg_cs (s : State) (w : Width) (r : Reg) (v : BitVec w.bits) : (s.putReg w r v).cs = s.cs := by cases w <;> simp [State.putReg]
@[simp] theorem State.putReg_ss (s : State) (w : Width) (r : Reg) (v : BitVec w.bits) : (s.putReg w r v).ss = s.ss := by cases w <;> simp [State.putReg]
@[simp] theorem State.putReg_ds (s : State) (w : Width) (r : Reg) (v : BitVec w.bits) : (s.putReg w r v).ds = s.ds := by cases w <;> simp [State.putReg]
@[simp] theorem State.putReg_gdtr (s : State) (w : Width) (r : Reg) (v : BitVec w.bits) : (s.putReg w r v).gdtr = s.gdtr := by cases w <;> simp [State.putReg]
@[simp] theorem State.putReg_idtr (s : State) (w : Width) (r : Reg) (v : BitVec w.bits) : (s.putReg w r v).idtr = s.idtr := by cases w <;> simp [State.putReg]
@[simp] theorem State.putReg_ldtr (s : State) (w : Width) (r : Reg) (v : BitVec w.bits) : (s.putReg w r v).ldtr = s.ldtr := by cases w <;> simp [State.putReg]
@[simp] theorem State.putReg_tr (s : State) (w : Width) (r : Reg) (v : BitVec w.bits) : (s.putReg w r v).tr = s.tr := by cases w <;> simp [State.putReg]
@[simp] theorem State.putReg_mem (s : State) (w : Width) (r : Reg) (v : BitVec w.bits) : (s.putReg w r v).mem = s.mem := by cases w <;> simp [State.putReg]
@[simp] theorem State.putReg_stale (s : State) (w : Width) (r : Reg) (v : BitVec w.bits) : (s.putReg w r v).stale = s.stale := by cases w <;> simp [State.putReg]
@[simp] theorem State.putReg_realQueue (s : State) (w : Width) (r : Reg) (v : BitVec w.bits) : (s.putReg w r v).realQueue = s.realQueue := by cases w <;> simp [State.putReg]
@[simp] theorem State.putReg_repeating (s : State) (w : Width) (r : Reg) (v : BitVec w.bits) : (s.putReg w r v).repeating = s.repeating := by cases w <;> simp [State.putReg]
@[simp] theorem State.putReg_nmiInService (s : State) (w : Width) (r : Reg) (v : BitVec w.bits) : (s.putReg w r v).nmiInService = s.nmiInService := by cases w <;> simp [State.putReg]
@[simp] theorem State.putReg_nmiPending (s : State) (w : Width) (r : Reg) (v : BitVec w.bits) : (s.putReg w r v).nmiPending = s.nmiPending := by cases w <;> simp [State.putReg]
@[simp] theorem State.putReg_overrunPending (s : State) (w : Width) (r : Reg) (v : BitVec w.bits) : (s.putReg w r v).overrunPending = s.overrunPending := by cases w <;> simp [State.putReg]
@[simp] theorem State.putReg_pereqInhibited (s : State) (w : Width) (r : Reg) (v : BitVec w.bits) : (s.putReg w r v).pereqInhibited = s.pereqInhibited := by cases w <;> simp [State.putReg]
@[simp] theorem State.putReg_halted (s : State) (w : Width) (r : Reg) (v : BitVec w.bits) : (s.putReg w r v).halted = s.halted := by cases w <;> simp [State.putReg]
@[simp] theorem State.putReg_shutdown (s : State) (w : Width) (r : Reg) (v : BitVec w.bits) : (s.putReg w r v).shutdown = s.shutdown := by cases w <;> simp [State.putReg]
@[simp] theorem State.putReg_ext (s : State) (w : Width) (r : Reg) (v : BitVec w.bits) : (s.putReg w r v).ext = s.ext := by cases w <;> simp [State.putReg]
@[simp] theorem State.putReg_trap (s : State) (w : Width) (r : Reg) (v : BitVec w.bits) : (s.putReg w r v).trap = s.trap := by cases w <;> simp [State.putReg]
@[simp] theorem State.putReg_inhibitAll (s : State) (w : Width) (r : Reg) (v : BitVec w.bits) : (s.putReg w r v).inhibitAll = s.inhibitAll := by cases w <;> simp [State.putReg]
@[simp] theorem State.putReg_inhibitIntr (s : State) (w : Width) (r : Reg) (v : BitVec w.bits) : (s.putReg w r v).inhibitIntr = s.inhibitIntr := by cases w <;> simp [State.putReg]
@[simp] theorem State.putReg_pfx (s : State) (w : Width) (r : Reg) (v : BitVec w.bits) : (s.putReg w r v).pfx = s.pfx := by cases w <;> simp [State.putReg]
@[simp] theorem State.putReg_curIp (s : State) (w : Width) (r : Reg) (v : BitVec w.bits) : (s.putReg w r v).curIp = s.curIp := by cases w <;> simp [State.putReg]
@[simp] theorem State.putReg_ipWrap (s : State) (w : Width) (r : Reg) (v : BitVec w.bits) : (s.putReg w r v).ipWrap = s.ipWrap := by cases w <;> simp [State.putReg]
@[simp] theorem State.putReg_pins (s : State) (w : Width) (r : Reg) (v : BitVec w.bits) : (s.putReg w r v).pins = s.pins := by cases w <;> simp [State.putReg]
@[simp] theorem State.putReg_board (s : State) (w : Width) (r : Reg) (v : BitVec w.bits) : (s.putReg w r v).board = s.board := by cases w <;> simp [State.putReg]
@[simp] theorem State.putReg_bus (s : State) (w : Width) (r : Reg) (v : BitVec w.bits) : (s.putReg w r v).bus = s.bus := by cases w <;> simp [State.putReg]
@[simp] theorem State.putReg_free (s : State) (w : Width) (r : Reg) (v : BitVec w.bits) : (s.putReg w r v).free = s.free := by cases w <;> simp [State.putReg]
@[simp] theorem State.putReg_ticks (s : State) (w : Width) (r : Reg) (v : BitVec w.bits) : (s.putReg w r v).ticks = s.ticks := by cases w <;> simp [State.putReg]

/-! `setSeg`. -/

@[simp] theorem State.setSeg_regs (s : State) (r : SReg) (v : SegReg) : (s.setSeg r v).regs = s.regs := by cases r <;> rfl
@[simp] theorem State.setSeg_ip (s : State) (r : SReg) (v : SegReg) : (s.setSeg r v).ip = s.ip := by cases r <;> rfl
@[simp] theorem State.setSeg_flags (s : State) (r : SReg) (v : SegReg) : (s.setSeg r v).flags = s.flags := by cases r <;> rfl
@[simp] theorem State.setSeg_msw (s : State) (r : SReg) (v : SegReg) : (s.setSeg r v).msw = s.msw := by cases r <;> rfl
@[simp] theorem State.setSeg_gdtr (s : State) (r : SReg) (v : SegReg) : (s.setSeg r v).gdtr = s.gdtr := by cases r <;> rfl
@[simp] theorem State.setSeg_idtr (s : State) (r : SReg) (v : SegReg) : (s.setSeg r v).idtr = s.idtr := by cases r <;> rfl
@[simp] theorem State.setSeg_ldtr (s : State) (r : SReg) (v : SegReg) : (s.setSeg r v).ldtr = s.ldtr := by cases r <;> rfl
@[simp] theorem State.setSeg_tr (s : State) (r : SReg) (v : SegReg) : (s.setSeg r v).tr = s.tr := by cases r <;> rfl
@[simp] theorem State.setSeg_mem (s : State) (r : SReg) (v : SegReg) : (s.setSeg r v).mem = s.mem := by cases r <;> rfl
@[simp] theorem State.setSeg_stale (s : State) (r : SReg) (v : SegReg) : (s.setSeg r v).stale = s.stale := by cases r <;> rfl
@[simp] theorem State.setSeg_realQueue (s : State) (r : SReg) (v : SegReg) : (s.setSeg r v).realQueue = s.realQueue := by cases r <;> rfl
@[simp] theorem State.setSeg_repeating (s : State) (r : SReg) (v : SegReg) : (s.setSeg r v).repeating = s.repeating := by cases r <;> rfl
@[simp] theorem State.setSeg_nmiInService (s : State) (r : SReg) (v : SegReg) : (s.setSeg r v).nmiInService = s.nmiInService := by cases r <;> rfl
@[simp] theorem State.setSeg_nmiPending (s : State) (r : SReg) (v : SegReg) : (s.setSeg r v).nmiPending = s.nmiPending := by cases r <;> rfl
@[simp] theorem State.setSeg_overrunPending (s : State) (r : SReg) (v : SegReg) : (s.setSeg r v).overrunPending = s.overrunPending := by cases r <;> rfl
@[simp] theorem State.setSeg_pereqInhibited (s : State) (r : SReg) (v : SegReg) : (s.setSeg r v).pereqInhibited = s.pereqInhibited := by cases r <;> rfl
@[simp] theorem State.setSeg_halted (s : State) (r : SReg) (v : SegReg) : (s.setSeg r v).halted = s.halted := by cases r <;> rfl
@[simp] theorem State.setSeg_shutdown (s : State) (r : SReg) (v : SegReg) : (s.setSeg r v).shutdown = s.shutdown := by cases r <;> rfl
@[simp] theorem State.setSeg_ext (s : State) (r : SReg) (v : SegReg) : (s.setSeg r v).ext = s.ext := by cases r <;> rfl
@[simp] theorem State.setSeg_trap (s : State) (r : SReg) (v : SegReg) : (s.setSeg r v).trap = s.trap := by cases r <;> rfl
@[simp] theorem State.setSeg_inhibitAll (s : State) (r : SReg) (v : SegReg) : (s.setSeg r v).inhibitAll = s.inhibitAll := by cases r <;> rfl
@[simp] theorem State.setSeg_inhibitIntr (s : State) (r : SReg) (v : SegReg) : (s.setSeg r v).inhibitIntr = s.inhibitIntr := by cases r <;> rfl
@[simp] theorem State.setSeg_pfx (s : State) (r : SReg) (v : SegReg) : (s.setSeg r v).pfx = s.pfx := by cases r <;> rfl
@[simp] theorem State.setSeg_curIp (s : State) (r : SReg) (v : SegReg) : (s.setSeg r v).curIp = s.curIp := by cases r <;> rfl
@[simp] theorem State.setSeg_ipWrap (s : State) (r : SReg) (v : SegReg) : (s.setSeg r v).ipWrap = s.ipWrap := by cases r <;> rfl
@[simp] theorem State.setSeg_pins (s : State) (r : SReg) (v : SegReg) : (s.setSeg r v).pins = s.pins := by cases r <;> rfl
@[simp] theorem State.setSeg_board (s : State) (r : SReg) (v : SegReg) : (s.setSeg r v).board = s.board := by cases r <;> rfl
@[simp] theorem State.setSeg_bus (s : State) (r : SReg) (v : SegReg) : (s.setSeg r v).bus = s.bus := by cases r <;> rfl
@[simp] theorem State.setSeg_free (s : State) (r : SReg) (v : SegReg) : (s.setSeg r v).free = s.free := by cases r <;> rfl
@[simp] theorem State.setSeg_ticks (s : State) (r : SReg) (v : SegReg) : (s.setSeg r v).ticks = s.ticks := by cases r <;> rfl

/-! `transfer`. -/

@[simp] theorem State.transfer_regs (s : State) (t : Word) : (s.transfer t).regs = s.regs := rfl
@[simp] theorem State.transfer_flags (s : State) (t : Word) : (s.transfer t).flags = s.flags := rfl
@[simp] theorem State.transfer_msw (s : State) (t : Word) : (s.transfer t).msw = s.msw := rfl
@[simp] theorem State.transfer_es (s : State) (t : Word) : (s.transfer t).es = s.es := rfl
@[simp] theorem State.transfer_cs (s : State) (t : Word) : (s.transfer t).cs = s.cs := rfl
@[simp] theorem State.transfer_ss (s : State) (t : Word) : (s.transfer t).ss = s.ss := rfl
@[simp] theorem State.transfer_ds (s : State) (t : Word) : (s.transfer t).ds = s.ds := rfl
@[simp] theorem State.transfer_gdtr (s : State) (t : Word) : (s.transfer t).gdtr = s.gdtr := rfl
@[simp] theorem State.transfer_idtr (s : State) (t : Word) : (s.transfer t).idtr = s.idtr := rfl
@[simp] theorem State.transfer_ldtr (s : State) (t : Word) : (s.transfer t).ldtr = s.ldtr := rfl
@[simp] theorem State.transfer_tr (s : State) (t : Word) : (s.transfer t).tr = s.tr := rfl
@[simp] theorem State.transfer_mem (s : State) (t : Word) : (s.transfer t).mem = s.mem := rfl
@[simp] theorem State.transfer_nmiInService (s : State) (t : Word) : (s.transfer t).nmiInService = s.nmiInService := rfl
@[simp] theorem State.transfer_nmiPending (s : State) (t : Word) : (s.transfer t).nmiPending = s.nmiPending := rfl
@[simp] theorem State.transfer_overrunPending (s : State) (t : Word) : (s.transfer t).overrunPending = s.overrunPending := rfl
@[simp] theorem State.transfer_pereqInhibited (s : State) (t : Word) : (s.transfer t).pereqInhibited = s.pereqInhibited := rfl
@[simp] theorem State.transfer_halted (s : State) (t : Word) : (s.transfer t).halted = s.halted := rfl
@[simp] theorem State.transfer_shutdown (s : State) (t : Word) : (s.transfer t).shutdown = s.shutdown := rfl
@[simp] theorem State.transfer_ext (s : State) (t : Word) : (s.transfer t).ext = s.ext := rfl
@[simp] theorem State.transfer_trap (s : State) (t : Word) : (s.transfer t).trap = s.trap := rfl
@[simp] theorem State.transfer_inhibitAll (s : State) (t : Word) : (s.transfer t).inhibitAll = s.inhibitAll := rfl
@[simp] theorem State.transfer_inhibitIntr (s : State) (t : Word) : (s.transfer t).inhibitIntr = s.inhibitIntr := rfl
@[simp] theorem State.transfer_pfx (s : State) (t : Word) : (s.transfer t).pfx = s.pfx := rfl
@[simp] theorem State.transfer_curIp (s : State) (t : Word) : (s.transfer t).curIp = s.curIp := rfl
@[simp] theorem State.transfer_pins (s : State) (t : Word) : (s.transfer t).pins = s.pins := rfl
@[simp] theorem State.transfer_board (s : State) (t : Word) : (s.transfer t).board = s.board := rfl
@[simp] theorem State.transfer_bus (s : State) (t : Word) : (s.transfer t).bus = s.bus := rfl
@[simp] theorem State.transfer_free (s : State) (t : Word) : (s.transfer t).free = s.free := rfl
@[simp] theorem State.transfer_ticks (s : State) (t : Word) : (s.transfer t).ticks = s.ticks := rfl

/-! `flush`. -/

@[simp] theorem State.flush_regs (s : State) : (s.flush).regs = s.regs := rfl
@[simp] theorem State.flush_ip (s : State) : (s.flush).ip = s.ip := rfl
@[simp] theorem State.flush_flags (s : State) : (s.flush).flags = s.flags := rfl
@[simp] theorem State.flush_msw (s : State) : (s.flush).msw = s.msw := rfl
@[simp] theorem State.flush_es (s : State) : (s.flush).es = s.es := rfl
@[simp] theorem State.flush_cs (s : State) : (s.flush).cs = s.cs := rfl
@[simp] theorem State.flush_ss (s : State) : (s.flush).ss = s.ss := rfl
@[simp] theorem State.flush_ds (s : State) : (s.flush).ds = s.ds := rfl
@[simp] theorem State.flush_gdtr (s : State) : (s.flush).gdtr = s.gdtr := rfl
@[simp] theorem State.flush_idtr (s : State) : (s.flush).idtr = s.idtr := rfl
@[simp] theorem State.flush_ldtr (s : State) : (s.flush).ldtr = s.ldtr := rfl
@[simp] theorem State.flush_tr (s : State) : (s.flush).tr = s.tr := rfl
@[simp] theorem State.flush_mem (s : State) : (s.flush).mem = s.mem := rfl
@[simp] theorem State.flush_nmiInService (s : State) : (s.flush).nmiInService = s.nmiInService := rfl
@[simp] theorem State.flush_nmiPending (s : State) : (s.flush).nmiPending = s.nmiPending := rfl
@[simp] theorem State.flush_overrunPending (s : State) : (s.flush).overrunPending = s.overrunPending := rfl
@[simp] theorem State.flush_pereqInhibited (s : State) : (s.flush).pereqInhibited = s.pereqInhibited := rfl
@[simp] theorem State.flush_halted (s : State) : (s.flush).halted = s.halted := rfl
@[simp] theorem State.flush_shutdown (s : State) : (s.flush).shutdown = s.shutdown := rfl
@[simp] theorem State.flush_ext (s : State) : (s.flush).ext = s.ext := rfl
@[simp] theorem State.flush_trap (s : State) : (s.flush).trap = s.trap := rfl
@[simp] theorem State.flush_inhibitAll (s : State) : (s.flush).inhibitAll = s.inhibitAll := rfl
@[simp] theorem State.flush_inhibitIntr (s : State) : (s.flush).inhibitIntr = s.inhibitIntr := rfl
@[simp] theorem State.flush_pfx (s : State) : (s.flush).pfx = s.pfx := rfl
@[simp] theorem State.flush_curIp (s : State) : (s.flush).curIp = s.curIp := rfl
@[simp] theorem State.flush_ipWrap (s : State) : (s.flush).ipWrap = s.ipWrap := rfl
@[simp] theorem State.flush_pins (s : State) : (s.flush).pins = s.pins := rfl
@[simp] theorem State.flush_board (s : State) : (s.flush).board = s.board := rfl
@[simp] theorem State.flush_bus (s : State) : (s.flush).bus = s.bus := rfl
@[simp] theorem State.flush_free (s : State) : (s.flush).free = s.free := rfl
@[simp] theorem State.flush_ticks (s : State) : (s.flush).ticks = s.ticks := rfl

/-! `endInstruction`. -/

@[simp] theorem State.endInstruction_regs (s : State) : (s.endInstruction).regs = s.regs := rfl
@[simp] theorem State.endInstruction_ip (s : State) : (s.endInstruction).ip = s.ip := rfl
@[simp] theorem State.endInstruction_flags (s : State) : (s.endInstruction).flags = s.flags := rfl
@[simp] theorem State.endInstruction_msw (s : State) : (s.endInstruction).msw = s.msw := rfl
@[simp] theorem State.endInstruction_es (s : State) : (s.endInstruction).es = s.es := rfl
@[simp] theorem State.endInstruction_cs (s : State) : (s.endInstruction).cs = s.cs := rfl
@[simp] theorem State.endInstruction_ss (s : State) : (s.endInstruction).ss = s.ss := rfl
@[simp] theorem State.endInstruction_ds (s : State) : (s.endInstruction).ds = s.ds := rfl
@[simp] theorem State.endInstruction_gdtr (s : State) : (s.endInstruction).gdtr = s.gdtr := rfl
@[simp] theorem State.endInstruction_idtr (s : State) : (s.endInstruction).idtr = s.idtr := rfl
@[simp] theorem State.endInstruction_ldtr (s : State) : (s.endInstruction).ldtr = s.ldtr := rfl
@[simp] theorem State.endInstruction_tr (s : State) : (s.endInstruction).tr = s.tr := rfl
@[simp] theorem State.endInstruction_mem (s : State) : (s.endInstruction).mem = s.mem := rfl
@[simp] theorem State.endInstruction_stale (s : State) : (s.endInstruction).stale = s.stale := rfl
@[simp] theorem State.endInstruction_realQueue (s : State) : (s.endInstruction).realQueue = s.realQueue := rfl
@[simp] theorem State.endInstruction_repeating (s : State) : (s.endInstruction).repeating = s.repeating := rfl
@[simp] theorem State.endInstruction_nmiInService (s : State) : (s.endInstruction).nmiInService = s.nmiInService := rfl
@[simp] theorem State.endInstruction_nmiPending (s : State) : (s.endInstruction).nmiPending = s.nmiPending := rfl
@[simp] theorem State.endInstruction_overrunPending (s : State) : (s.endInstruction).overrunPending = s.overrunPending := rfl
@[simp] theorem State.endInstruction_pereqInhibited (s : State) : (s.endInstruction).pereqInhibited = s.pereqInhibited := rfl
@[simp] theorem State.endInstruction_halted (s : State) : (s.endInstruction).halted = s.halted := rfl
@[simp] theorem State.endInstruction_shutdown (s : State) : (s.endInstruction).shutdown = s.shutdown := rfl
@[simp] theorem State.endInstruction_ext (s : State) : (s.endInstruction).ext = s.ext := rfl
@[simp] theorem State.endInstruction_trap (s : State) : (s.endInstruction).trap = s.trap := rfl
@[simp] theorem State.endInstruction_inhibitAll (s : State) : (s.endInstruction).inhibitAll = s.inhibitAll := rfl
@[simp] theorem State.endInstruction_inhibitIntr (s : State) : (s.endInstruction).inhibitIntr = s.inhibitIntr := rfl
@[simp] theorem State.endInstruction_curIp (s : State) : (s.endInstruction).curIp = s.curIp := rfl
@[simp] theorem State.endInstruction_ipWrap (s : State) : (s.endInstruction).ipWrap = s.ipWrap := rfl
@[simp] theorem State.endInstruction_pins (s : State) : (s.endInstruction).pins = s.pins := rfl
@[simp] theorem State.endInstruction_board (s : State) : (s.endInstruction).board = s.board := rfl
@[simp] theorem State.endInstruction_bus (s : State) : (s.endInstruction).bus = s.bus := rfl
@[simp] theorem State.endInstruction_free (s : State) : (s.endInstruction).free = s.free := rfl
@[simp] theorem State.endInstruction_ticks (s : State) : (s.endInstruction).ticks = s.ticks := rfl

/-! `writeByte`. -/

@[simp] theorem State.writeByte_regs (s : State) (a : Addr) (v : Byte) : (s.writeByte a v).regs = s.regs := rfl
@[simp] theorem State.writeByte_ip (s : State) (a : Addr) (v : Byte) : (s.writeByte a v).ip = s.ip := rfl
@[simp] theorem State.writeByte_flags (s : State) (a : Addr) (v : Byte) : (s.writeByte a v).flags = s.flags := rfl
@[simp] theorem State.writeByte_msw (s : State) (a : Addr) (v : Byte) : (s.writeByte a v).msw = s.msw := rfl
@[simp] theorem State.writeByte_es (s : State) (a : Addr) (v : Byte) : (s.writeByte a v).es = s.es := rfl
@[simp] theorem State.writeByte_cs (s : State) (a : Addr) (v : Byte) : (s.writeByte a v).cs = s.cs := rfl
@[simp] theorem State.writeByte_ss (s : State) (a : Addr) (v : Byte) : (s.writeByte a v).ss = s.ss := rfl
@[simp] theorem State.writeByte_ds (s : State) (a : Addr) (v : Byte) : (s.writeByte a v).ds = s.ds := rfl
@[simp] theorem State.writeByte_gdtr (s : State) (a : Addr) (v : Byte) : (s.writeByte a v).gdtr = s.gdtr := rfl
@[simp] theorem State.writeByte_idtr (s : State) (a : Addr) (v : Byte) : (s.writeByte a v).idtr = s.idtr := rfl
@[simp] theorem State.writeByte_ldtr (s : State) (a : Addr) (v : Byte) : (s.writeByte a v).ldtr = s.ldtr := rfl
@[simp] theorem State.writeByte_tr (s : State) (a : Addr) (v : Byte) : (s.writeByte a v).tr = s.tr := rfl
@[simp] theorem State.writeByte_realQueue (s : State) (a : Addr) (v : Byte) : (s.writeByte a v).realQueue = s.realQueue := rfl
@[simp] theorem State.writeByte_repeating (s : State) (a : Addr) (v : Byte) : (s.writeByte a v).repeating = s.repeating := rfl
@[simp] theorem State.writeByte_nmiInService (s : State) (a : Addr) (v : Byte) : (s.writeByte a v).nmiInService = s.nmiInService := rfl
@[simp] theorem State.writeByte_nmiPending (s : State) (a : Addr) (v : Byte) : (s.writeByte a v).nmiPending = s.nmiPending := rfl
@[simp] theorem State.writeByte_overrunPending (s : State) (a : Addr) (v : Byte) : (s.writeByte a v).overrunPending = s.overrunPending := rfl
@[simp] theorem State.writeByte_pereqInhibited (s : State) (a : Addr) (v : Byte) : (s.writeByte a v).pereqInhibited = s.pereqInhibited := rfl
@[simp] theorem State.writeByte_halted (s : State) (a : Addr) (v : Byte) : (s.writeByte a v).halted = s.halted := rfl
@[simp] theorem State.writeByte_shutdown (s : State) (a : Addr) (v : Byte) : (s.writeByte a v).shutdown = s.shutdown := rfl
@[simp] theorem State.writeByte_ext (s : State) (a : Addr) (v : Byte) : (s.writeByte a v).ext = s.ext := rfl
@[simp] theorem State.writeByte_trap (s : State) (a : Addr) (v : Byte) : (s.writeByte a v).trap = s.trap := rfl
@[simp] theorem State.writeByte_inhibitAll (s : State) (a : Addr) (v : Byte) : (s.writeByte a v).inhibitAll = s.inhibitAll := rfl
@[simp] theorem State.writeByte_inhibitIntr (s : State) (a : Addr) (v : Byte) : (s.writeByte a v).inhibitIntr = s.inhibitIntr := rfl
@[simp] theorem State.writeByte_pfx (s : State) (a : Addr) (v : Byte) : (s.writeByte a v).pfx = s.pfx := rfl
@[simp] theorem State.writeByte_curIp (s : State) (a : Addr) (v : Byte) : (s.writeByte a v).curIp = s.curIp := rfl
@[simp] theorem State.writeByte_ipWrap (s : State) (a : Addr) (v : Byte) : (s.writeByte a v).ipWrap = s.ipWrap := rfl
@[simp] theorem State.writeByte_pins (s : State) (a : Addr) (v : Byte) : (s.writeByte a v).pins = s.pins := rfl
@[simp] theorem State.writeByte_board (s : State) (a : Addr) (v : Byte) : (s.writeByte a v).board = s.board := rfl
@[simp] theorem State.writeByte_bus (s : State) (a : Addr) (v : Byte) : (s.writeByte a v).bus = s.bus := rfl
@[simp] theorem State.writeByte_free (s : State) (a : Addr) (v : Byte) : (s.writeByte a v).free = s.free := rfl
@[simp] theorem State.writeByte_ticks (s : State) (a : Addr) (v : Byte) : (s.writeByte a v).ticks = s.ticks := rfl

/-! `writeWord`. -/

@[simp] theorem State.writeWord_regs (s : State) (a : Addr) (v : Word) : (s.writeWord a v).regs = s.regs := rfl
@[simp] theorem State.writeWord_ip (s : State) (a : Addr) (v : Word) : (s.writeWord a v).ip = s.ip := rfl
@[simp] theorem State.writeWord_flags (s : State) (a : Addr) (v : Word) : (s.writeWord a v).flags = s.flags := rfl
@[simp] theorem State.writeWord_msw (s : State) (a : Addr) (v : Word) : (s.writeWord a v).msw = s.msw := rfl
@[simp] theorem State.writeWord_es (s : State) (a : Addr) (v : Word) : (s.writeWord a v).es = s.es := rfl
@[simp] theorem State.writeWord_cs (s : State) (a : Addr) (v : Word) : (s.writeWord a v).cs = s.cs := rfl
@[simp] theorem State.writeWord_ss (s : State) (a : Addr) (v : Word) : (s.writeWord a v).ss = s.ss := rfl
@[simp] theorem State.writeWord_ds (s : State) (a : Addr) (v : Word) : (s.writeWord a v).ds = s.ds := rfl
@[simp] theorem State.writeWord_gdtr (s : State) (a : Addr) (v : Word) : (s.writeWord a v).gdtr = s.gdtr := rfl
@[simp] theorem State.writeWord_idtr (s : State) (a : Addr) (v : Word) : (s.writeWord a v).idtr = s.idtr := rfl
@[simp] theorem State.writeWord_ldtr (s : State) (a : Addr) (v : Word) : (s.writeWord a v).ldtr = s.ldtr := rfl
@[simp] theorem State.writeWord_tr (s : State) (a : Addr) (v : Word) : (s.writeWord a v).tr = s.tr := rfl
@[simp] theorem State.writeWord_realQueue (s : State) (a : Addr) (v : Word) : (s.writeWord a v).realQueue = s.realQueue := rfl
@[simp] theorem State.writeWord_repeating (s : State) (a : Addr) (v : Word) : (s.writeWord a v).repeating = s.repeating := rfl
@[simp] theorem State.writeWord_nmiInService (s : State) (a : Addr) (v : Word) : (s.writeWord a v).nmiInService = s.nmiInService := rfl
@[simp] theorem State.writeWord_nmiPending (s : State) (a : Addr) (v : Word) : (s.writeWord a v).nmiPending = s.nmiPending := rfl
@[simp] theorem State.writeWord_overrunPending (s : State) (a : Addr) (v : Word) : (s.writeWord a v).overrunPending = s.overrunPending := rfl
@[simp] theorem State.writeWord_pereqInhibited (s : State) (a : Addr) (v : Word) : (s.writeWord a v).pereqInhibited = s.pereqInhibited := rfl
@[simp] theorem State.writeWord_halted (s : State) (a : Addr) (v : Word) : (s.writeWord a v).halted = s.halted := rfl
@[simp] theorem State.writeWord_shutdown (s : State) (a : Addr) (v : Word) : (s.writeWord a v).shutdown = s.shutdown := rfl
@[simp] theorem State.writeWord_ext (s : State) (a : Addr) (v : Word) : (s.writeWord a v).ext = s.ext := rfl
@[simp] theorem State.writeWord_trap (s : State) (a : Addr) (v : Word) : (s.writeWord a v).trap = s.trap := rfl
@[simp] theorem State.writeWord_inhibitAll (s : State) (a : Addr) (v : Word) : (s.writeWord a v).inhibitAll = s.inhibitAll := rfl
@[simp] theorem State.writeWord_inhibitIntr (s : State) (a : Addr) (v : Word) : (s.writeWord a v).inhibitIntr = s.inhibitIntr := rfl
@[simp] theorem State.writeWord_pfx (s : State) (a : Addr) (v : Word) : (s.writeWord a v).pfx = s.pfx := rfl
@[simp] theorem State.writeWord_curIp (s : State) (a : Addr) (v : Word) : (s.writeWord a v).curIp = s.curIp := rfl
@[simp] theorem State.writeWord_ipWrap (s : State) (a : Addr) (v : Word) : (s.writeWord a v).ipWrap = s.ipWrap := rfl
@[simp] theorem State.writeWord_pins (s : State) (a : Addr) (v : Word) : (s.writeWord a v).pins = s.pins := rfl
@[simp] theorem State.writeWord_board (s : State) (a : Addr) (v : Word) : (s.writeWord a v).board = s.board := rfl
@[simp] theorem State.writeWord_bus (s : State) (a : Addr) (v : Word) : (s.writeWord a v).bus = s.bus := rfl
@[simp] theorem State.writeWord_free (s : State) (a : Addr) (v : Word) : (s.writeWord a v).free = s.free := rfl
@[simp] theorem State.writeWord_ticks (s : State) (a : Addr) (v : Word) : (s.writeWord a v).ticks = s.ticks := rfl

/-! `storeVia`. -/

@[simp] theorem State.storeVia_regs (s : State) (g : SegReg) (o : Word) (w : Width) (v : BitVec w.bits) : (s.storeVia g o w v).regs = s.regs := by cases w <;> rfl
@[simp] theorem State.storeVia_ip (s : State) (g : SegReg) (o : Word) (w : Width) (v : BitVec w.bits) : (s.storeVia g o w v).ip = s.ip := by cases w <;> rfl
@[simp] theorem State.storeVia_flags (s : State) (g : SegReg) (o : Word) (w : Width) (v : BitVec w.bits) : (s.storeVia g o w v).flags = s.flags := by cases w <;> rfl
@[simp] theorem State.storeVia_msw (s : State) (g : SegReg) (o : Word) (w : Width) (v : BitVec w.bits) : (s.storeVia g o w v).msw = s.msw := by cases w <;> rfl
@[simp] theorem State.storeVia_es (s : State) (g : SegReg) (o : Word) (w : Width) (v : BitVec w.bits) : (s.storeVia g o w v).es = s.es := by cases w <;> rfl
@[simp] theorem State.storeVia_cs (s : State) (g : SegReg) (o : Word) (w : Width) (v : BitVec w.bits) : (s.storeVia g o w v).cs = s.cs := by cases w <;> rfl
@[simp] theorem State.storeVia_ss (s : State) (g : SegReg) (o : Word) (w : Width) (v : BitVec w.bits) : (s.storeVia g o w v).ss = s.ss := by cases w <;> rfl
@[simp] theorem State.storeVia_ds (s : State) (g : SegReg) (o : Word) (w : Width) (v : BitVec w.bits) : (s.storeVia g o w v).ds = s.ds := by cases w <;> rfl
@[simp] theorem State.storeVia_gdtr (s : State) (g : SegReg) (o : Word) (w : Width) (v : BitVec w.bits) : (s.storeVia g o w v).gdtr = s.gdtr := by cases w <;> rfl
@[simp] theorem State.storeVia_idtr (s : State) (g : SegReg) (o : Word) (w : Width) (v : BitVec w.bits) : (s.storeVia g o w v).idtr = s.idtr := by cases w <;> rfl
@[simp] theorem State.storeVia_ldtr (s : State) (g : SegReg) (o : Word) (w : Width) (v : BitVec w.bits) : (s.storeVia g o w v).ldtr = s.ldtr := by cases w <;> rfl
@[simp] theorem State.storeVia_tr (s : State) (g : SegReg) (o : Word) (w : Width) (v : BitVec w.bits) : (s.storeVia g o w v).tr = s.tr := by cases w <;> rfl
@[simp] theorem State.storeVia_realQueue (s : State) (g : SegReg) (o : Word) (w : Width) (v : BitVec w.bits) : (s.storeVia g o w v).realQueue = s.realQueue := by cases w <;> rfl
@[simp] theorem State.storeVia_repeating (s : State) (g : SegReg) (o : Word) (w : Width) (v : BitVec w.bits) : (s.storeVia g o w v).repeating = s.repeating := by cases w <;> rfl
@[simp] theorem State.storeVia_nmiInService (s : State) (g : SegReg) (o : Word) (w : Width) (v : BitVec w.bits) : (s.storeVia g o w v).nmiInService = s.nmiInService := by cases w <;> rfl
@[simp] theorem State.storeVia_nmiPending (s : State) (g : SegReg) (o : Word) (w : Width) (v : BitVec w.bits) : (s.storeVia g o w v).nmiPending = s.nmiPending := by cases w <;> rfl
@[simp] theorem State.storeVia_overrunPending (s : State) (g : SegReg) (o : Word) (w : Width) (v : BitVec w.bits) : (s.storeVia g o w v).overrunPending = s.overrunPending := by cases w <;> rfl
@[simp] theorem State.storeVia_pereqInhibited (s : State) (g : SegReg) (o : Word) (w : Width) (v : BitVec w.bits) : (s.storeVia g o w v).pereqInhibited = s.pereqInhibited := by cases w <;> rfl
@[simp] theorem State.storeVia_halted (s : State) (g : SegReg) (o : Word) (w : Width) (v : BitVec w.bits) : (s.storeVia g o w v).halted = s.halted := by cases w <;> rfl
@[simp] theorem State.storeVia_shutdown (s : State) (g : SegReg) (o : Word) (w : Width) (v : BitVec w.bits) : (s.storeVia g o w v).shutdown = s.shutdown := by cases w <;> rfl
@[simp] theorem State.storeVia_ext (s : State) (g : SegReg) (o : Word) (w : Width) (v : BitVec w.bits) : (s.storeVia g o w v).ext = s.ext := by cases w <;> rfl
@[simp] theorem State.storeVia_trap (s : State) (g : SegReg) (o : Word) (w : Width) (v : BitVec w.bits) : (s.storeVia g o w v).trap = s.trap := by cases w <;> rfl
@[simp] theorem State.storeVia_inhibitAll (s : State) (g : SegReg) (o : Word) (w : Width) (v : BitVec w.bits) : (s.storeVia g o w v).inhibitAll = s.inhibitAll := by cases w <;> rfl
@[simp] theorem State.storeVia_inhibitIntr (s : State) (g : SegReg) (o : Word) (w : Width) (v : BitVec w.bits) : (s.storeVia g o w v).inhibitIntr = s.inhibitIntr := by cases w <;> rfl
@[simp] theorem State.storeVia_pfx (s : State) (g : SegReg) (o : Word) (w : Width) (v : BitVec w.bits) : (s.storeVia g o w v).pfx = s.pfx := by cases w <;> rfl
@[simp] theorem State.storeVia_curIp (s : State) (g : SegReg) (o : Word) (w : Width) (v : BitVec w.bits) : (s.storeVia g o w v).curIp = s.curIp := by cases w <;> rfl
@[simp] theorem State.storeVia_ipWrap (s : State) (g : SegReg) (o : Word) (w : Width) (v : BitVec w.bits) : (s.storeVia g o w v).ipWrap = s.ipWrap := by cases w <;> rfl
@[simp] theorem State.storeVia_pins (s : State) (g : SegReg) (o : Word) (w : Width) (v : BitVec w.bits) : (s.storeVia g o w v).pins = s.pins := by cases w <;> rfl
@[simp] theorem State.storeVia_board (s : State) (g : SegReg) (o : Word) (w : Width) (v : BitVec w.bits) : (s.storeVia g o w v).board = s.board := by cases w <;> rfl
@[simp] theorem State.storeVia_bus (s : State) (g : SegReg) (o : Word) (w : Width) (v : BitVec w.bits) : (s.storeVia g o w v).bus = s.bus := by cases w <;> rfl
@[simp] theorem State.storeVia_free (s : State) (g : SegReg) (o : Word) (w : Width) (v : BitVec w.bits) : (s.storeVia g o w v).free = s.free := by cases w <;> rfl
@[simp] theorem State.storeVia_ticks (s : State) (g : SegReg) (o : Word) (w : Width) (v : BitVec w.bits) : (s.storeVia g o w v).ticks = s.ticks := by cases w <;> rfl

/-! `store`. -/

@[simp] theorem State.store_regs (s : State) (q : SReg) (o : Word) (w : Width) (v : BitVec w.bits) : (s.store q o w v).regs = s.regs := by simp [State.store]
@[simp] theorem State.store_ip (s : State) (q : SReg) (o : Word) (w : Width) (v : BitVec w.bits) : (s.store q o w v).ip = s.ip := by simp [State.store]
@[simp] theorem State.store_flags (s : State) (q : SReg) (o : Word) (w : Width) (v : BitVec w.bits) : (s.store q o w v).flags = s.flags := by simp [State.store]
@[simp] theorem State.store_msw (s : State) (q : SReg) (o : Word) (w : Width) (v : BitVec w.bits) : (s.store q o w v).msw = s.msw := by simp [State.store]
@[simp] theorem State.store_es (s : State) (q : SReg) (o : Word) (w : Width) (v : BitVec w.bits) : (s.store q o w v).es = s.es := by simp [State.store]
@[simp] theorem State.store_cs (s : State) (q : SReg) (o : Word) (w : Width) (v : BitVec w.bits) : (s.store q o w v).cs = s.cs := by simp [State.store]
@[simp] theorem State.store_ss (s : State) (q : SReg) (o : Word) (w : Width) (v : BitVec w.bits) : (s.store q o w v).ss = s.ss := by simp [State.store]
@[simp] theorem State.store_ds (s : State) (q : SReg) (o : Word) (w : Width) (v : BitVec w.bits) : (s.store q o w v).ds = s.ds := by simp [State.store]
@[simp] theorem State.store_gdtr (s : State) (q : SReg) (o : Word) (w : Width) (v : BitVec w.bits) : (s.store q o w v).gdtr = s.gdtr := by simp [State.store]
@[simp] theorem State.store_idtr (s : State) (q : SReg) (o : Word) (w : Width) (v : BitVec w.bits) : (s.store q o w v).idtr = s.idtr := by simp [State.store]
@[simp] theorem State.store_ldtr (s : State) (q : SReg) (o : Word) (w : Width) (v : BitVec w.bits) : (s.store q o w v).ldtr = s.ldtr := by simp [State.store]
@[simp] theorem State.store_tr (s : State) (q : SReg) (o : Word) (w : Width) (v : BitVec w.bits) : (s.store q o w v).tr = s.tr := by simp [State.store]
@[simp] theorem State.store_realQueue (s : State) (q : SReg) (o : Word) (w : Width) (v : BitVec w.bits) : (s.store q o w v).realQueue = s.realQueue := by simp [State.store]
@[simp] theorem State.store_repeating (s : State) (q : SReg) (o : Word) (w : Width) (v : BitVec w.bits) : (s.store q o w v).repeating = s.repeating := by simp [State.store]
@[simp] theorem State.store_nmiInService (s : State) (q : SReg) (o : Word) (w : Width) (v : BitVec w.bits) : (s.store q o w v).nmiInService = s.nmiInService := by simp [State.store]
@[simp] theorem State.store_nmiPending (s : State) (q : SReg) (o : Word) (w : Width) (v : BitVec w.bits) : (s.store q o w v).nmiPending = s.nmiPending := by simp [State.store]
@[simp] theorem State.store_overrunPending (s : State) (q : SReg) (o : Word) (w : Width) (v : BitVec w.bits) : (s.store q o w v).overrunPending = s.overrunPending := by simp [State.store]
@[simp] theorem State.store_pereqInhibited (s : State) (q : SReg) (o : Word) (w : Width) (v : BitVec w.bits) : (s.store q o w v).pereqInhibited = s.pereqInhibited := by simp [State.store]
@[simp] theorem State.store_halted (s : State) (q : SReg) (o : Word) (w : Width) (v : BitVec w.bits) : (s.store q o w v).halted = s.halted := by simp [State.store]
@[simp] theorem State.store_shutdown (s : State) (q : SReg) (o : Word) (w : Width) (v : BitVec w.bits) : (s.store q o w v).shutdown = s.shutdown := by simp [State.store]
@[simp] theorem State.store_ext (s : State) (q : SReg) (o : Word) (w : Width) (v : BitVec w.bits) : (s.store q o w v).ext = s.ext := by simp [State.store]
@[simp] theorem State.store_trap (s : State) (q : SReg) (o : Word) (w : Width) (v : BitVec w.bits) : (s.store q o w v).trap = s.trap := by simp [State.store]
@[simp] theorem State.store_inhibitAll (s : State) (q : SReg) (o : Word) (w : Width) (v : BitVec w.bits) : (s.store q o w v).inhibitAll = s.inhibitAll := by simp [State.store]
@[simp] theorem State.store_inhibitIntr (s : State) (q : SReg) (o : Word) (w : Width) (v : BitVec w.bits) : (s.store q o w v).inhibitIntr = s.inhibitIntr := by simp [State.store]
@[simp] theorem State.store_pfx (s : State) (q : SReg) (o : Word) (w : Width) (v : BitVec w.bits) : (s.store q o w v).pfx = s.pfx := by simp [State.store]
@[simp] theorem State.store_curIp (s : State) (q : SReg) (o : Word) (w : Width) (v : BitVec w.bits) : (s.store q o w v).curIp = s.curIp := by simp [State.store]
@[simp] theorem State.store_ipWrap (s : State) (q : SReg) (o : Word) (w : Width) (v : BitVec w.bits) : (s.store q o w v).ipWrap = s.ipWrap := by simp [State.store]
@[simp] theorem State.store_pins (s : State) (q : SReg) (o : Word) (w : Width) (v : BitVec w.bits) : (s.store q o w v).pins = s.pins := by simp [State.store]
@[simp] theorem State.store_board (s : State) (q : SReg) (o : Word) (w : Width) (v : BitVec w.bits) : (s.store q o w v).board = s.board := by simp [State.store]
@[simp] theorem State.store_bus (s : State) (q : SReg) (o : Word) (w : Width) (v : BitVec w.bits) : (s.store q o w v).bus = s.bus := by simp [State.store]
@[simp] theorem State.store_free (s : State) (q : SReg) (o : Word) (w : Width) (v : BitVec w.bits) : (s.store q o w v).free = s.free := by simp [State.store]
@[simp] theorem State.store_ticks (s : State) (q : SReg) (o : Word) (w : Width) (v : BitVec w.bits) : (s.store q o w v).ticks = s.ticks := by simp [State.store]

/-! `setMem`. -/

@[simp] theorem State.setMem_regs (s : State) (m : MemOp) (d : Word) (w : Width) (v : BitVec w.bits) : (s.setMem m d w v).regs = s.regs := by simp [State.setMem]
@[simp] theorem State.setMem_ip (s : State) (m : MemOp) (d : Word) (w : Width) (v : BitVec w.bits) : (s.setMem m d w v).ip = s.ip := by simp [State.setMem]
@[simp] theorem State.setMem_flags (s : State) (m : MemOp) (d : Word) (w : Width) (v : BitVec w.bits) : (s.setMem m d w v).flags = s.flags := by simp [State.setMem]
@[simp] theorem State.setMem_msw (s : State) (m : MemOp) (d : Word) (w : Width) (v : BitVec w.bits) : (s.setMem m d w v).msw = s.msw := by simp [State.setMem]
@[simp] theorem State.setMem_es (s : State) (m : MemOp) (d : Word) (w : Width) (v : BitVec w.bits) : (s.setMem m d w v).es = s.es := by simp [State.setMem]
@[simp] theorem State.setMem_cs (s : State) (m : MemOp) (d : Word) (w : Width) (v : BitVec w.bits) : (s.setMem m d w v).cs = s.cs := by simp [State.setMem]
@[simp] theorem State.setMem_ss (s : State) (m : MemOp) (d : Word) (w : Width) (v : BitVec w.bits) : (s.setMem m d w v).ss = s.ss := by simp [State.setMem]
@[simp] theorem State.setMem_ds (s : State) (m : MemOp) (d : Word) (w : Width) (v : BitVec w.bits) : (s.setMem m d w v).ds = s.ds := by simp [State.setMem]
@[simp] theorem State.setMem_gdtr (s : State) (m : MemOp) (d : Word) (w : Width) (v : BitVec w.bits) : (s.setMem m d w v).gdtr = s.gdtr := by simp [State.setMem]
@[simp] theorem State.setMem_idtr (s : State) (m : MemOp) (d : Word) (w : Width) (v : BitVec w.bits) : (s.setMem m d w v).idtr = s.idtr := by simp [State.setMem]
@[simp] theorem State.setMem_ldtr (s : State) (m : MemOp) (d : Word) (w : Width) (v : BitVec w.bits) : (s.setMem m d w v).ldtr = s.ldtr := by simp [State.setMem]
@[simp] theorem State.setMem_tr (s : State) (m : MemOp) (d : Word) (w : Width) (v : BitVec w.bits) : (s.setMem m d w v).tr = s.tr := by simp [State.setMem]
@[simp] theorem State.setMem_realQueue (s : State) (m : MemOp) (d : Word) (w : Width) (v : BitVec w.bits) : (s.setMem m d w v).realQueue = s.realQueue := by simp [State.setMem]
@[simp] theorem State.setMem_repeating (s : State) (m : MemOp) (d : Word) (w : Width) (v : BitVec w.bits) : (s.setMem m d w v).repeating = s.repeating := by simp [State.setMem]
@[simp] theorem State.setMem_nmiInService (s : State) (m : MemOp) (d : Word) (w : Width) (v : BitVec w.bits) : (s.setMem m d w v).nmiInService = s.nmiInService := by simp [State.setMem]
@[simp] theorem State.setMem_nmiPending (s : State) (m : MemOp) (d : Word) (w : Width) (v : BitVec w.bits) : (s.setMem m d w v).nmiPending = s.nmiPending := by simp [State.setMem]
@[simp] theorem State.setMem_overrunPending (s : State) (m : MemOp) (d : Word) (w : Width) (v : BitVec w.bits) : (s.setMem m d w v).overrunPending = s.overrunPending := by simp [State.setMem]
@[simp] theorem State.setMem_pereqInhibited (s : State) (m : MemOp) (d : Word) (w : Width) (v : BitVec w.bits) : (s.setMem m d w v).pereqInhibited = s.pereqInhibited := by simp [State.setMem]
@[simp] theorem State.setMem_halted (s : State) (m : MemOp) (d : Word) (w : Width) (v : BitVec w.bits) : (s.setMem m d w v).halted = s.halted := by simp [State.setMem]
@[simp] theorem State.setMem_shutdown (s : State) (m : MemOp) (d : Word) (w : Width) (v : BitVec w.bits) : (s.setMem m d w v).shutdown = s.shutdown := by simp [State.setMem]
@[simp] theorem State.setMem_ext (s : State) (m : MemOp) (d : Word) (w : Width) (v : BitVec w.bits) : (s.setMem m d w v).ext = s.ext := by simp [State.setMem]
@[simp] theorem State.setMem_trap (s : State) (m : MemOp) (d : Word) (w : Width) (v : BitVec w.bits) : (s.setMem m d w v).trap = s.trap := by simp [State.setMem]
@[simp] theorem State.setMem_inhibitAll (s : State) (m : MemOp) (d : Word) (w : Width) (v : BitVec w.bits) : (s.setMem m d w v).inhibitAll = s.inhibitAll := by simp [State.setMem]
@[simp] theorem State.setMem_inhibitIntr (s : State) (m : MemOp) (d : Word) (w : Width) (v : BitVec w.bits) : (s.setMem m d w v).inhibitIntr = s.inhibitIntr := by simp [State.setMem]
@[simp] theorem State.setMem_pfx (s : State) (m : MemOp) (d : Word) (w : Width) (v : BitVec w.bits) : (s.setMem m d w v).pfx = s.pfx := by simp [State.setMem]
@[simp] theorem State.setMem_curIp (s : State) (m : MemOp) (d : Word) (w : Width) (v : BitVec w.bits) : (s.setMem m d w v).curIp = s.curIp := by simp [State.setMem]
@[simp] theorem State.setMem_ipWrap (s : State) (m : MemOp) (d : Word) (w : Width) (v : BitVec w.bits) : (s.setMem m d w v).ipWrap = s.ipWrap := by simp [State.setMem]
@[simp] theorem State.setMem_pins (s : State) (m : MemOp) (d : Word) (w : Width) (v : BitVec w.bits) : (s.setMem m d w v).pins = s.pins := by simp [State.setMem]
@[simp] theorem State.setMem_board (s : State) (m : MemOp) (d : Word) (w : Width) (v : BitVec w.bits) : (s.setMem m d w v).board = s.board := by simp [State.setMem]
@[simp] theorem State.setMem_bus (s : State) (m : MemOp) (d : Word) (w : Width) (v : BitVec w.bits) : (s.setMem m d w v).bus = s.bus := by simp [State.setMem]
@[simp] theorem State.setMem_free (s : State) (m : MemOp) (d : Word) (w : Width) (v : BitVec w.bits) : (s.setMem m d w v).free = s.free := by simp [State.setMem]
@[simp] theorem State.setMem_ticks (s : State) (m : MemOp) (d : Word) (w : Width) (v : BitVec w.bits) : (s.setMem m d w v).ticks = s.ticks := by simp [State.setMem]

/-! `writeFrame`. -/

@[simp] theorem State.writeFrame_regs (s : State) (g : SegReg) (sp : Word) (l : List Word) : (s.writeFrame g sp l).regs = s.regs := by
  induction l generalizing s sp <;> simp_all [State.writeFrame]
@[simp] theorem State.writeFrame_ip (s : State) (g : SegReg) (sp : Word) (l : List Word) : (s.writeFrame g sp l).ip = s.ip := by
  induction l generalizing s sp <;> simp_all [State.writeFrame]
@[simp] theorem State.writeFrame_flags (s : State) (g : SegReg) (sp : Word) (l : List Word) : (s.writeFrame g sp l).flags = s.flags := by
  induction l generalizing s sp <;> simp_all [State.writeFrame]
@[simp] theorem State.writeFrame_msw (s : State) (g : SegReg) (sp : Word) (l : List Word) : (s.writeFrame g sp l).msw = s.msw := by
  induction l generalizing s sp <;> simp_all [State.writeFrame]
@[simp] theorem State.writeFrame_es (s : State) (g : SegReg) (sp : Word) (l : List Word) : (s.writeFrame g sp l).es = s.es := by
  induction l generalizing s sp <;> simp_all [State.writeFrame]
@[simp] theorem State.writeFrame_cs (s : State) (g : SegReg) (sp : Word) (l : List Word) : (s.writeFrame g sp l).cs = s.cs := by
  induction l generalizing s sp <;> simp_all [State.writeFrame]
@[simp] theorem State.writeFrame_ss (s : State) (g : SegReg) (sp : Word) (l : List Word) : (s.writeFrame g sp l).ss = s.ss := by
  induction l generalizing s sp <;> simp_all [State.writeFrame]
@[simp] theorem State.writeFrame_ds (s : State) (g : SegReg) (sp : Word) (l : List Word) : (s.writeFrame g sp l).ds = s.ds := by
  induction l generalizing s sp <;> simp_all [State.writeFrame]
@[simp] theorem State.writeFrame_gdtr (s : State) (g : SegReg) (sp : Word) (l : List Word) : (s.writeFrame g sp l).gdtr = s.gdtr := by
  induction l generalizing s sp <;> simp_all [State.writeFrame]
@[simp] theorem State.writeFrame_idtr (s : State) (g : SegReg) (sp : Word) (l : List Word) : (s.writeFrame g sp l).idtr = s.idtr := by
  induction l generalizing s sp <;> simp_all [State.writeFrame]
@[simp] theorem State.writeFrame_ldtr (s : State) (g : SegReg) (sp : Word) (l : List Word) : (s.writeFrame g sp l).ldtr = s.ldtr := by
  induction l generalizing s sp <;> simp_all [State.writeFrame]
@[simp] theorem State.writeFrame_tr (s : State) (g : SegReg) (sp : Word) (l : List Word) : (s.writeFrame g sp l).tr = s.tr := by
  induction l generalizing s sp <;> simp_all [State.writeFrame]
@[simp] theorem State.writeFrame_realQueue (s : State) (g : SegReg) (sp : Word) (l : List Word) : (s.writeFrame g sp l).realQueue = s.realQueue := by
  induction l generalizing s sp <;> simp_all [State.writeFrame]
@[simp] theorem State.writeFrame_repeating (s : State) (g : SegReg) (sp : Word) (l : List Word) : (s.writeFrame g sp l).repeating = s.repeating := by
  induction l generalizing s sp <;> simp_all [State.writeFrame]
@[simp] theorem State.writeFrame_nmiInService (s : State) (g : SegReg) (sp : Word) (l : List Word) : (s.writeFrame g sp l).nmiInService = s.nmiInService := by
  induction l generalizing s sp <;> simp_all [State.writeFrame]
@[simp] theorem State.writeFrame_nmiPending (s : State) (g : SegReg) (sp : Word) (l : List Word) : (s.writeFrame g sp l).nmiPending = s.nmiPending := by
  induction l generalizing s sp <;> simp_all [State.writeFrame]
@[simp] theorem State.writeFrame_overrunPending (s : State) (g : SegReg) (sp : Word) (l : List Word) : (s.writeFrame g sp l).overrunPending = s.overrunPending := by
  induction l generalizing s sp <;> simp_all [State.writeFrame]
@[simp] theorem State.writeFrame_pereqInhibited (s : State) (g : SegReg) (sp : Word) (l : List Word) : (s.writeFrame g sp l).pereqInhibited = s.pereqInhibited := by
  induction l generalizing s sp <;> simp_all [State.writeFrame]
@[simp] theorem State.writeFrame_halted (s : State) (g : SegReg) (sp : Word) (l : List Word) : (s.writeFrame g sp l).halted = s.halted := by
  induction l generalizing s sp <;> simp_all [State.writeFrame]
@[simp] theorem State.writeFrame_shutdown (s : State) (g : SegReg) (sp : Word) (l : List Word) : (s.writeFrame g sp l).shutdown = s.shutdown := by
  induction l generalizing s sp <;> simp_all [State.writeFrame]
@[simp] theorem State.writeFrame_ext (s : State) (g : SegReg) (sp : Word) (l : List Word) : (s.writeFrame g sp l).ext = s.ext := by
  induction l generalizing s sp <;> simp_all [State.writeFrame]
@[simp] theorem State.writeFrame_trap (s : State) (g : SegReg) (sp : Word) (l : List Word) : (s.writeFrame g sp l).trap = s.trap := by
  induction l generalizing s sp <;> simp_all [State.writeFrame]
@[simp] theorem State.writeFrame_inhibitAll (s : State) (g : SegReg) (sp : Word) (l : List Word) : (s.writeFrame g sp l).inhibitAll = s.inhibitAll := by
  induction l generalizing s sp <;> simp_all [State.writeFrame]
@[simp] theorem State.writeFrame_inhibitIntr (s : State) (g : SegReg) (sp : Word) (l : List Word) : (s.writeFrame g sp l).inhibitIntr = s.inhibitIntr := by
  induction l generalizing s sp <;> simp_all [State.writeFrame]
@[simp] theorem State.writeFrame_pfx (s : State) (g : SegReg) (sp : Word) (l : List Word) : (s.writeFrame g sp l).pfx = s.pfx := by
  induction l generalizing s sp <;> simp_all [State.writeFrame]
@[simp] theorem State.writeFrame_curIp (s : State) (g : SegReg) (sp : Word) (l : List Word) : (s.writeFrame g sp l).curIp = s.curIp := by
  induction l generalizing s sp <;> simp_all [State.writeFrame]
@[simp] theorem State.writeFrame_ipWrap (s : State) (g : SegReg) (sp : Word) (l : List Word) : (s.writeFrame g sp l).ipWrap = s.ipWrap := by
  induction l generalizing s sp <;> simp_all [State.writeFrame]
@[simp] theorem State.writeFrame_pins (s : State) (g : SegReg) (sp : Word) (l : List Word) : (s.writeFrame g sp l).pins = s.pins := by
  induction l generalizing s sp <;> simp_all [State.writeFrame]
@[simp] theorem State.writeFrame_board (s : State) (g : SegReg) (sp : Word) (l : List Word) : (s.writeFrame g sp l).board = s.board := by
  induction l generalizing s sp <;> simp_all [State.writeFrame]
@[simp] theorem State.writeFrame_bus (s : State) (g : SegReg) (sp : Word) (l : List Word) : (s.writeFrame g sp l).bus = s.bus := by
  induction l generalizing s sp <;> simp_all [State.writeFrame]
@[simp] theorem State.writeFrame_free (s : State) (g : SegReg) (sp : Word) (l : List Word) : (s.writeFrame g sp l).free = s.free := by
  induction l generalizing s sp <;> simp_all [State.writeFrame]
@[simp] theorem State.writeFrame_ticks (s : State) (g : SegReg) (sp : Word) (l : List Word) : (s.writeFrame g sp l).ticks = s.ticks := by
  induction l generalizing s sp <;> simp_all [State.writeFrame]

/-! `setRm`. -/

@[simp] theorem State.setRm_ip (s : State) (rm : Rm) (w : Width) (v : BitVec w.bits) : (s.setRm rm w v).ip = s.ip := by cases rm <;> simp [State.setRm]
@[simp] theorem State.setRm_flags (s : State) (rm : Rm) (w : Width) (v : BitVec w.bits) : (s.setRm rm w v).flags = s.flags := by cases rm <;> simp [State.setRm]
@[simp] theorem State.setRm_msw (s : State) (rm : Rm) (w : Width) (v : BitVec w.bits) : (s.setRm rm w v).msw = s.msw := by cases rm <;> simp [State.setRm]
@[simp] theorem State.setRm_es (s : State) (rm : Rm) (w : Width) (v : BitVec w.bits) : (s.setRm rm w v).es = s.es := by cases rm <;> simp [State.setRm]
@[simp] theorem State.setRm_cs (s : State) (rm : Rm) (w : Width) (v : BitVec w.bits) : (s.setRm rm w v).cs = s.cs := by cases rm <;> simp [State.setRm]
@[simp] theorem State.setRm_ss (s : State) (rm : Rm) (w : Width) (v : BitVec w.bits) : (s.setRm rm w v).ss = s.ss := by cases rm <;> simp [State.setRm]
@[simp] theorem State.setRm_ds (s : State) (rm : Rm) (w : Width) (v : BitVec w.bits) : (s.setRm rm w v).ds = s.ds := by cases rm <;> simp [State.setRm]
@[simp] theorem State.setRm_gdtr (s : State) (rm : Rm) (w : Width) (v : BitVec w.bits) : (s.setRm rm w v).gdtr = s.gdtr := by cases rm <;> simp [State.setRm]
@[simp] theorem State.setRm_idtr (s : State) (rm : Rm) (w : Width) (v : BitVec w.bits) : (s.setRm rm w v).idtr = s.idtr := by cases rm <;> simp [State.setRm]
@[simp] theorem State.setRm_ldtr (s : State) (rm : Rm) (w : Width) (v : BitVec w.bits) : (s.setRm rm w v).ldtr = s.ldtr := by cases rm <;> simp [State.setRm]
@[simp] theorem State.setRm_tr (s : State) (rm : Rm) (w : Width) (v : BitVec w.bits) : (s.setRm rm w v).tr = s.tr := by cases rm <;> simp [State.setRm]
@[simp] theorem State.setRm_realQueue (s : State) (rm : Rm) (w : Width) (v : BitVec w.bits) : (s.setRm rm w v).realQueue = s.realQueue := by cases rm <;> simp [State.setRm]
@[simp] theorem State.setRm_repeating (s : State) (rm : Rm) (w : Width) (v : BitVec w.bits) : (s.setRm rm w v).repeating = s.repeating := by cases rm <;> simp [State.setRm]
@[simp] theorem State.setRm_nmiInService (s : State) (rm : Rm) (w : Width) (v : BitVec w.bits) : (s.setRm rm w v).nmiInService = s.nmiInService := by cases rm <;> simp [State.setRm]
@[simp] theorem State.setRm_nmiPending (s : State) (rm : Rm) (w : Width) (v : BitVec w.bits) : (s.setRm rm w v).nmiPending = s.nmiPending := by cases rm <;> simp [State.setRm]
@[simp] theorem State.setRm_overrunPending (s : State) (rm : Rm) (w : Width) (v : BitVec w.bits) : (s.setRm rm w v).overrunPending = s.overrunPending := by cases rm <;> simp [State.setRm]
@[simp] theorem State.setRm_pereqInhibited (s : State) (rm : Rm) (w : Width) (v : BitVec w.bits) : (s.setRm rm w v).pereqInhibited = s.pereqInhibited := by cases rm <;> simp [State.setRm]
@[simp] theorem State.setRm_halted (s : State) (rm : Rm) (w : Width) (v : BitVec w.bits) : (s.setRm rm w v).halted = s.halted := by cases rm <;> simp [State.setRm]
@[simp] theorem State.setRm_shutdown (s : State) (rm : Rm) (w : Width) (v : BitVec w.bits) : (s.setRm rm w v).shutdown = s.shutdown := by cases rm <;> simp [State.setRm]
@[simp] theorem State.setRm_ext (s : State) (rm : Rm) (w : Width) (v : BitVec w.bits) : (s.setRm rm w v).ext = s.ext := by cases rm <;> simp [State.setRm]
@[simp] theorem State.setRm_trap (s : State) (rm : Rm) (w : Width) (v : BitVec w.bits) : (s.setRm rm w v).trap = s.trap := by cases rm <;> simp [State.setRm]
@[simp] theorem State.setRm_inhibitAll (s : State) (rm : Rm) (w : Width) (v : BitVec w.bits) : (s.setRm rm w v).inhibitAll = s.inhibitAll := by cases rm <;> simp [State.setRm]
@[simp] theorem State.setRm_inhibitIntr (s : State) (rm : Rm) (w : Width) (v : BitVec w.bits) : (s.setRm rm w v).inhibitIntr = s.inhibitIntr := by cases rm <;> simp [State.setRm]
@[simp] theorem State.setRm_pfx (s : State) (rm : Rm) (w : Width) (v : BitVec w.bits) : (s.setRm rm w v).pfx = s.pfx := by cases rm <;> simp [State.setRm]
@[simp] theorem State.setRm_curIp (s : State) (rm : Rm) (w : Width) (v : BitVec w.bits) : (s.setRm rm w v).curIp = s.curIp := by cases rm <;> simp [State.setRm]
@[simp] theorem State.setRm_ipWrap (s : State) (rm : Rm) (w : Width) (v : BitVec w.bits) : (s.setRm rm w v).ipWrap = s.ipWrap := by cases rm <;> simp [State.setRm]
@[simp] theorem State.setRm_pins (s : State) (rm : Rm) (w : Width) (v : BitVec w.bits) : (s.setRm rm w v).pins = s.pins := by cases rm <;> simp [State.setRm]
@[simp] theorem State.setRm_board (s : State) (rm : Rm) (w : Width) (v : BitVec w.bits) : (s.setRm rm w v).board = s.board := by cases rm <;> simp [State.setRm]
@[simp] theorem State.setRm_bus (s : State) (rm : Rm) (w : Width) (v : BitVec w.bits) : (s.setRm rm w v).bus = s.bus := by cases rm <;> simp [State.setRm]
@[simp] theorem State.setRm_free (s : State) (rm : Rm) (w : Width) (v : BitVec w.bits) : (s.setRm rm w v).free = s.free := by cases rm <;> simp [State.setRm]
@[simp] theorem State.setRm_ticks (s : State) (rm : Rm) (w : Width) (v : BitVec w.bits) : (s.setRm rm w v).ticks = s.ticks := by cases rm <;> simp [State.setRm]

/-! `setAccessed`. -/

@[simp] theorem State.setAccessed_regs (s : State) (d : Descriptor) : (s.setAccessed d).regs = s.regs := by unfold State.setAccessed; split <;> rfl
@[simp] theorem State.setAccessed_ip (s : State) (d : Descriptor) : (s.setAccessed d).ip = s.ip := by unfold State.setAccessed; split <;> rfl
@[simp] theorem State.setAccessed_flags (s : State) (d : Descriptor) : (s.setAccessed d).flags = s.flags := by unfold State.setAccessed; split <;> rfl
@[simp] theorem State.setAccessed_msw (s : State) (d : Descriptor) : (s.setAccessed d).msw = s.msw := by unfold State.setAccessed; split <;> rfl
@[simp] theorem State.setAccessed_es (s : State) (d : Descriptor) : (s.setAccessed d).es = s.es := by unfold State.setAccessed; split <;> rfl
@[simp] theorem State.setAccessed_cs (s : State) (d : Descriptor) : (s.setAccessed d).cs = s.cs := by unfold State.setAccessed; split <;> rfl
@[simp] theorem State.setAccessed_ss (s : State) (d : Descriptor) : (s.setAccessed d).ss = s.ss := by unfold State.setAccessed; split <;> rfl
@[simp] theorem State.setAccessed_ds (s : State) (d : Descriptor) : (s.setAccessed d).ds = s.ds := by unfold State.setAccessed; split <;> rfl
@[simp] theorem State.setAccessed_gdtr (s : State) (d : Descriptor) : (s.setAccessed d).gdtr = s.gdtr := by unfold State.setAccessed; split <;> rfl
@[simp] theorem State.setAccessed_idtr (s : State) (d : Descriptor) : (s.setAccessed d).idtr = s.idtr := by unfold State.setAccessed; split <;> rfl
@[simp] theorem State.setAccessed_ldtr (s : State) (d : Descriptor) : (s.setAccessed d).ldtr = s.ldtr := by unfold State.setAccessed; split <;> rfl
@[simp] theorem State.setAccessed_tr (s : State) (d : Descriptor) : (s.setAccessed d).tr = s.tr := by unfold State.setAccessed; split <;> rfl
@[simp] theorem State.setAccessed_realQueue (s : State) (d : Descriptor) : (s.setAccessed d).realQueue = s.realQueue := by unfold State.setAccessed; split <;> rfl
@[simp] theorem State.setAccessed_repeating (s : State) (d : Descriptor) : (s.setAccessed d).repeating = s.repeating := by unfold State.setAccessed; split <;> rfl
@[simp] theorem State.setAccessed_nmiInService (s : State) (d : Descriptor) : (s.setAccessed d).nmiInService = s.nmiInService := by unfold State.setAccessed; split <;> rfl
@[simp] theorem State.setAccessed_nmiPending (s : State) (d : Descriptor) : (s.setAccessed d).nmiPending = s.nmiPending := by unfold State.setAccessed; split <;> rfl
@[simp] theorem State.setAccessed_overrunPending (s : State) (d : Descriptor) : (s.setAccessed d).overrunPending = s.overrunPending := by unfold State.setAccessed; split <;> rfl
@[simp] theorem State.setAccessed_pereqInhibited (s : State) (d : Descriptor) : (s.setAccessed d).pereqInhibited = s.pereqInhibited := by unfold State.setAccessed; split <;> rfl
@[simp] theorem State.setAccessed_halted (s : State) (d : Descriptor) : (s.setAccessed d).halted = s.halted := by unfold State.setAccessed; split <;> rfl
@[simp] theorem State.setAccessed_shutdown (s : State) (d : Descriptor) : (s.setAccessed d).shutdown = s.shutdown := by unfold State.setAccessed; split <;> rfl
@[simp] theorem State.setAccessed_ext (s : State) (d : Descriptor) : (s.setAccessed d).ext = s.ext := by unfold State.setAccessed; split <;> rfl
@[simp] theorem State.setAccessed_trap (s : State) (d : Descriptor) : (s.setAccessed d).trap = s.trap := by unfold State.setAccessed; split <;> rfl
@[simp] theorem State.setAccessed_inhibitAll (s : State) (d : Descriptor) : (s.setAccessed d).inhibitAll = s.inhibitAll := by unfold State.setAccessed; split <;> rfl
@[simp] theorem State.setAccessed_inhibitIntr (s : State) (d : Descriptor) : (s.setAccessed d).inhibitIntr = s.inhibitIntr := by unfold State.setAccessed; split <;> rfl
@[simp] theorem State.setAccessed_pfx (s : State) (d : Descriptor) : (s.setAccessed d).pfx = s.pfx := by unfold State.setAccessed; split <;> rfl
@[simp] theorem State.setAccessed_curIp (s : State) (d : Descriptor) : (s.setAccessed d).curIp = s.curIp := by unfold State.setAccessed; split <;> rfl
@[simp] theorem State.setAccessed_ipWrap (s : State) (d : Descriptor) : (s.setAccessed d).ipWrap = s.ipWrap := by unfold State.setAccessed; split <;> rfl
@[simp] theorem State.setAccessed_pins (s : State) (d : Descriptor) : (s.setAccessed d).pins = s.pins := by unfold State.setAccessed; split <;> rfl
@[simp] theorem State.setAccessed_board (s : State) (d : Descriptor) : (s.setAccessed d).board = s.board := by unfold State.setAccessed; split <;> rfl
@[simp] theorem State.setAccessed_bus (s : State) (d : Descriptor) : (s.setAccessed d).bus = s.bus := by unfold State.setAccessed; split <;> rfl
@[simp] theorem State.setAccessed_free (s : State) (d : Descriptor) : (s.setAccessed d).free = s.free := by unfold State.setAccessed; split <;> rfl
@[simp] theorem State.setAccessed_ticks (s : State) (d : Descriptor) : (s.setAccessed d).ticks = s.ticks := by unfold State.setAccessed; split <;> rfl

/-! `ioWrite`. -/

@[simp] theorem State.ioWrite_regs (s : State) (p : Word) (w : Width) (v : BitVec w.bits) : (s.ioWrite p w v).regs = s.regs := rfl
@[simp] theorem State.ioWrite_ip (s : State) (p : Word) (w : Width) (v : BitVec w.bits) : (s.ioWrite p w v).ip = s.ip := rfl
@[simp] theorem State.ioWrite_flags (s : State) (p : Word) (w : Width) (v : BitVec w.bits) : (s.ioWrite p w v).flags = s.flags := rfl
@[simp] theorem State.ioWrite_msw (s : State) (p : Word) (w : Width) (v : BitVec w.bits) : (s.ioWrite p w v).msw = s.msw := rfl
@[simp] theorem State.ioWrite_es (s : State) (p : Word) (w : Width) (v : BitVec w.bits) : (s.ioWrite p w v).es = s.es := rfl
@[simp] theorem State.ioWrite_cs (s : State) (p : Word) (w : Width) (v : BitVec w.bits) : (s.ioWrite p w v).cs = s.cs := rfl
@[simp] theorem State.ioWrite_ss (s : State) (p : Word) (w : Width) (v : BitVec w.bits) : (s.ioWrite p w v).ss = s.ss := rfl
@[simp] theorem State.ioWrite_ds (s : State) (p : Word) (w : Width) (v : BitVec w.bits) : (s.ioWrite p w v).ds = s.ds := rfl
@[simp] theorem State.ioWrite_gdtr (s : State) (p : Word) (w : Width) (v : BitVec w.bits) : (s.ioWrite p w v).gdtr = s.gdtr := rfl
@[simp] theorem State.ioWrite_idtr (s : State) (p : Word) (w : Width) (v : BitVec w.bits) : (s.ioWrite p w v).idtr = s.idtr := rfl
@[simp] theorem State.ioWrite_ldtr (s : State) (p : Word) (w : Width) (v : BitVec w.bits) : (s.ioWrite p w v).ldtr = s.ldtr := rfl
@[simp] theorem State.ioWrite_tr (s : State) (p : Word) (w : Width) (v : BitVec w.bits) : (s.ioWrite p w v).tr = s.tr := rfl
@[simp] theorem State.ioWrite_mem (s : State) (p : Word) (w : Width) (v : BitVec w.bits) : (s.ioWrite p w v).mem = s.mem := rfl
@[simp] theorem State.ioWrite_stale (s : State) (p : Word) (w : Width) (v : BitVec w.bits) : (s.ioWrite p w v).stale = s.stale := rfl
@[simp] theorem State.ioWrite_realQueue (s : State) (p : Word) (w : Width) (v : BitVec w.bits) : (s.ioWrite p w v).realQueue = s.realQueue := rfl
@[simp] theorem State.ioWrite_repeating (s : State) (p : Word) (w : Width) (v : BitVec w.bits) : (s.ioWrite p w v).repeating = s.repeating := rfl
@[simp] theorem State.ioWrite_nmiInService (s : State) (p : Word) (w : Width) (v : BitVec w.bits) : (s.ioWrite p w v).nmiInService = s.nmiInService := rfl
@[simp] theorem State.ioWrite_nmiPending (s : State) (p : Word) (w : Width) (v : BitVec w.bits) : (s.ioWrite p w v).nmiPending = s.nmiPending := rfl
@[simp] theorem State.ioWrite_overrunPending (s : State) (p : Word) (w : Width) (v : BitVec w.bits) : (s.ioWrite p w v).overrunPending = s.overrunPending := rfl
@[simp] theorem State.ioWrite_pereqInhibited (s : State) (p : Word) (w : Width) (v : BitVec w.bits) : (s.ioWrite p w v).pereqInhibited = s.pereqInhibited := rfl
@[simp] theorem State.ioWrite_halted (s : State) (p : Word) (w : Width) (v : BitVec w.bits) : (s.ioWrite p w v).halted = s.halted := rfl
@[simp] theorem State.ioWrite_shutdown (s : State) (p : Word) (w : Width) (v : BitVec w.bits) : (s.ioWrite p w v).shutdown = s.shutdown := rfl
@[simp] theorem State.ioWrite_ext (s : State) (p : Word) (w : Width) (v : BitVec w.bits) : (s.ioWrite p w v).ext = s.ext := rfl
@[simp] theorem State.ioWrite_trap (s : State) (p : Word) (w : Width) (v : BitVec w.bits) : (s.ioWrite p w v).trap = s.trap := rfl
@[simp] theorem State.ioWrite_inhibitAll (s : State) (p : Word) (w : Width) (v : BitVec w.bits) : (s.ioWrite p w v).inhibitAll = s.inhibitAll := rfl
@[simp] theorem State.ioWrite_inhibitIntr (s : State) (p : Word) (w : Width) (v : BitVec w.bits) : (s.ioWrite p w v).inhibitIntr = s.inhibitIntr := rfl
@[simp] theorem State.ioWrite_pfx (s : State) (p : Word) (w : Width) (v : BitVec w.bits) : (s.ioWrite p w v).pfx = s.pfx := rfl
@[simp] theorem State.ioWrite_curIp (s : State) (p : Word) (w : Width) (v : BitVec w.bits) : (s.ioWrite p w v).curIp = s.curIp := rfl
@[simp] theorem State.ioWrite_ipWrap (s : State) (p : Word) (w : Width) (v : BitVec w.bits) : (s.ioWrite p w v).ipWrap = s.ipWrap := rfl
@[simp] theorem State.ioWrite_pins (s : State) (p : Word) (w : Width) (v : BitVec w.bits) : (s.ioWrite p w v).pins = s.pins := rfl
@[simp] theorem State.ioWrite_board (s : State) (p : Word) (w : Width) (v : BitVec w.bits) : (s.ioWrite p w v).board = s.board := rfl
@[simp] theorem State.ioWrite_free (s : State) (p : Word) (w : Width) (v : BitVec w.bits) : (s.ioWrite p w v).free = s.free := rfl
@[simp] theorem State.ioWrite_ticks (s : State) (p : Word) (w : Width) (v : BitVec w.bits) : (s.ioWrite p w v).ticks = s.ticks := rfl

/-! What the updates set. -/

@[simp] theorem State.transfer_ip (s : State) (t : Word) : (s.transfer t).ip = t := rfl
@[simp] theorem State.transfer_stale (s : State) (t : Word) : (s.transfer t).stale = [] := rfl
@[simp] theorem State.transfer_realQueue (s : State) (t : Word) : (s.transfer t).realQueue = none := rfl
@[simp] theorem State.transfer_ipWrap (s : State) (t : Word) : (s.transfer t).ipWrap = false := rfl
@[simp] theorem State.endInstruction_pfx (s : State) : s.endInstruction.pfx = noPrefixes := rfl
@[simp] theorem State.writeByte_mem (s : State) (a : Addr) (v : Byte) :
    (s.writeByte a v).mem = if s.isRam (s.physical a) then Memory.write s.mem (s.physical a) v else s.mem := rfl
@[simp] theorem State.ioWrite_bus (s : State) (p : Word) (w : Width) (v : BitVec w.bits) :
    (s.ioWrite p w v).bus = portOperations .ioWrite p w (asWord w v) ++ s.bus := rfl
@[simp] theorem State.flush_stale (s : State) : s.flush.stale = [] := rfl
@[simp] theorem State.flush_repeating (s : State) : s.flush.repeating = none := rfl
@[simp] theorem State.transfer_repeating (s : State) (t : Word) : (s.transfer t).repeating = none := rfl
@[simp] theorem State.flush_realQueue (s : State) : s.flush.realQueue = none := rfl

@[simp] theorem State.setSeg_seg (s : State) (r : SReg) (v : SegReg) : (s.setSeg r v).seg r = v := by cases r <;> rfl

theorem State.setSeg_seg_ne (s : State) {r q : SReg} (v : SegReg) (h : q ≠ r) : (s.setSeg r v).seg q = s.seg q := by
  cases r <;> cases q <;> first | rfl | exact absurd rfl h

/-- A register reads what was written to it. -/
@[simp] theorem State.setReg_reg (s : State) (r : Reg) (v : Word) : (s.setReg r v).reg r = v := by
  simp [State.setReg, State.reg]

/-- Every other register is unchanged. -/
theorem State.setReg_reg_ne (s : State) {r q : Reg} (v : Word) (h : q ≠ r) : (s.setReg r v).reg q = s.reg q := by
  have : r.toNat ≠ q.toNat := fun e => h (BitVec.eq_of_toNat_eq e.symm)
  simp [State.setReg, State.reg, this]

/-! The registers of the other updates. -/

@[simp] theorem State.reg_writeByte (s : State) (a : Addr) (v : Byte) (r : Reg) : (s.writeByte a v).reg r = s.reg r := rfl
@[simp] theorem State.reg_writeWord (s : State) (a : Addr) (v : Word) (r : Reg) : (s.writeWord a v).reg r = s.reg r := rfl
@[simp] theorem State.reg_storeVia (s : State) (g : SegReg) (o : Word) (w : Width) (v : BitVec w.bits) (r : Reg) :
    (s.storeVia g o w v).reg r = s.reg r := by cases w <;> rfl
@[simp] theorem State.reg_store (s : State) (q : SReg) (o : Word) (w : Width) (v : BitVec w.bits) (r : Reg) :
    (s.store q o w v).reg r = s.reg r := by simp [State.store]
@[simp] theorem State.reg_setSeg (s : State) (q : SReg) (v : SegReg) (r : Reg) : (s.setSeg q v).reg r = s.reg r := by
  cases q <;> rfl
@[simp] theorem State.reg_transfer (s : State) (t : Word) (r : Reg) : (s.transfer t).reg r = s.reg r := rfl
@[simp] theorem State.reg_flush (s : State) (r : Reg) : s.flush.reg r = s.reg r := rfl
@[simp] theorem State.reg_endInstruction (s : State) (r : Reg) : s.endInstruction.reg r = s.reg r := rfl
@[simp] theorem State.reg_setAccessed (s : State) (d : Descriptor) (r : Reg) : (s.setAccessed d).reg r = s.reg r := by
  unfold State.setAccessed; split <;> rfl

@[simp] theorem State.reg_setMem (s : State) (m : MemOp) (d : Word) (w : Width) (v : BitVec w.bits) (r : Reg) :
    (s.setMem m d w v).reg r = s.reg r := by simp [State.setMem]
@[simp] theorem State.reg_writeFrame (s : State) (g : SegReg) (sp : Word) (l : List Word) (r : Reg) :
    (s.writeFrame g sp l).reg r = s.reg r := by simp [State.reg]

/-! The segment registers of the other updates. -/

@[simp] theorem State.seg_setReg (s : State) (q : Reg) (v : Word) (r : SReg) : (s.setReg q v).seg r = s.seg r := by
  cases r <;> rfl
@[simp] theorem State.seg_storeVia (s : State) (g : SegReg) (o : Word) (w : Width) (v : BitVec w.bits) (r : SReg) :
    (s.storeVia g o w v).seg r = s.seg r := by cases r <;> cases w <;> rfl
@[simp] theorem State.seg_store (s : State) (q : SReg) (o : Word) (w : Width) (v : BitVec w.bits) (r : SReg) :
    (s.store q o w v).seg r = s.seg r := by simp [State.store]
@[simp] theorem State.seg_writeFrame (s : State) (g : SegReg) (sp : Word) (l : List Word) (r : SReg) :
    (s.writeFrame g sp l).seg r = s.seg r := by cases r <;> simp [State.seg]
@[simp] theorem State.seg_endInstruction (s : State) (r : SReg) : s.endInstruction.seg r = s.seg r := by cases r <;> rfl

end Sys2Proof.Machine
end

