-- ==== Sys2Proof/Laws/Shapes.lean ====
section
/-! SUPPORT. What each shared shape of an instruction does, said once: the state it completes in, or the reason it
stops. -/

namespace Sys2Proof.Machine

/-! Where an operand may be written it may be read. -/

theorem State.accessStop_read {s : State} {r : SReg} {off : Word} {w : Width}
    (h : s.accessStop r off w true = none) : s.accessStop r off w false = none := by
  have hw : (s.seg r).rights.writable = true → (s.seg r).rights.readable = true := by
    cases (s.seg r).rights <;> simp [Rights.writable, Rights.readable]
    intro h _
    simp [h]
  unfold State.accessStop segmentStop at *
  revert h
  cases s.msw.pe
  · simp
  · simp only [Bool.not_true, Bool.false_eq_true, ↓reduceIte]
    split <;> simp
    cases hw' : (s.seg r).rights.writable
    · simp
    · rw [hw hw']
      simp

theorem State.rmStop_read {s : State} {rm : Rm} {w : Width} (h : s.rmStop rm w true = none) :
    s.rmStop rm w false = none := by
  cases rm with
  | reg r => rfl
  | mem m => exact State.accessStop_read h

/-! The count of free values is no part of an operand. -/

@[simp] theorem State.getReg_free (s : State) (n : Nat) (w : Width) (r : Reg) :
    ({ s with free := n } : State).getReg w r = s.getReg w r := by cases w <;> rfl

@[simp] theorem State.rmValue_free (s : State) (n : Nat) (rm : Rm) (w : Width) :
    ({ s with free := n } : State).rmValue rm w = s.rmValue rm w := by cases rm <;> cases w <;> rfl

@[simp] theorem State.putReg_free_comm (s : State) (n : Nat) (w : Width) (r : Reg) (v : BitVec w.bits) :
    ({ s with free := n } : State).putReg w r v = { s.putReg w r v with free := n } := by
  cases w
  · simp only [State.putReg, State.setReg8]
    split <;> rfl
  · rfl

@[simp] theorem State.setRm_free_comm (s : State) (n : Nat) (rm : Rm) (w : Width) (v : BitVec w.bits) :
    ({ s with free := n } : State).setRm rm w v = { s.setRm rm w v with free := n } := by
  cases rm with
  | reg r => exact State.putReg_free_comm s n w r v
  | mem m => cases w <;> rfl

/-! Two operands and one. -/

theorem aluToRm_eq (w : Width) (rm : Rm) (src : State → BitVec w.bits) (k : Nat) (op : AluOp w.bits) (s : State)
    (hs : ∀ n, src { s with free := n } = src s) :
    aluToRm w rm src k op s = match s.rmStop rm w true with
      | none => .ok () { s.setRm rm w (op s.free s.flags (s.rmValue rm w) (src s)).1 with
          flags := (op s.free s.flags (s.rmValue rm w) (src s)).2, free := s.free + k }
      | some e => .error e s := by
  simp only [aluToRm, check_bind]
  cases s.rmStop rm w true
  · simp [hs]
  · rfl

theorem aluToReg_eq (w : Width) (r : Reg) (rm : Rm) (k : Nat) (op : AluOp w.bits) (s : State) :
    aluToReg w r rm k op s = match s.rmStop rm w false with
      | none => .ok () { s.putReg w r (op s.free s.flags (s.getReg w r) (s.rmValue rm w)).1 with
          flags := (op s.free s.flags (s.getReg w r) (s.rmValue rm w)).2, free := s.free + k }
      | some e => .error e s := by
  simp only [aluToReg, check_bind]
  cases s.rmStop rm w false
  · simp
  · rfl

theorem aluToAcc_eq (w : Width) (v : BitVec w.bits) (k : Nat) (op : AluOp w.bits) (s : State) :
    aluToAcc w v k op s = .ok () { s.putReg w 0 (op s.free s.flags (s.getReg w 0) v).1 with
      flags := (op s.free s.flags (s.getReg w 0) v).2, free := s.free + k } := by
  simp [aluToAcc, State.acc, State.setAcc]

theorem aluTest_eq (w : Width) (rm : Rm) (k : Nat) (op : AluOp w.bits) (a b : State → BitVec w.bits) (s : State)
    (ha : ∀ n, a { s with free := n } = a s) (hb : ∀ n, b { s with free := n } = b s) :
    aluTest w rm k op a b s = match s.rmStop rm w false with
      | none => .ok () { s with flags := (op s.free s.flags (a s) (b s)).2, free := s.free + k }
      | some e => .error e s := by
  simp only [aluTest, check_bind]
  cases s.rmStop rm w false
  · simp [ha, hb]
  · rfl

theorem unaryRm_eq (w : Width) (rm : Rm) (op : Flags → BitVec w.bits → BitVec w.bits × Flags) (s : State) :
    unaryRm w rm op s = match s.rmStop rm w true with
      | none => .ok () { s.setRm rm w (op s.flags (s.rmValue rm w)).1 with flags := (op s.flags (s.rmValue rm w)).2 }
      | some e => .error e s := by
  simp only [unaryRm, check_bind]
  cases s.rmStop rm w true <;> rfl

theorem shiftRm_eq (op : ShiftOp) (w : Width) (rm : Rm) (count : Byte) (s : State) :
    shiftRm op w rm count s = match s.rmStop rm w true with
      | none =>
        if shiftCount count = 0 then .ok () s
        else .ok () { s.setRm rm w (shiftResult op (s.rmValue rm w) count s.flags.cf) with
          flags := shiftFlags s.flags op (s.rmValue rm w) count s.free, free := s.free + 2 }
      | some e => .error e s := by
  simp only [shiftRm, check_bind]
  cases s.rmStop rm w true
  · by_cases h : shiftCount count = 0 <;> simp [h]
  · rfl

/-! The stack. -/

/-- A PUSH of an operand that may be pushed is `push16`. -/
theorem pushOperand_eq (v : Word) {s : State} (h : s.pushStop (s.reg SP - 2) = none) :
    pushOperand v s = .ok () ((s.store .ss (s.reg SP - 2) .word v).setReg SP (s.reg SP - 2)) := by
  have hw : (!s.msw.pe && s.reg SP == 1) = false := by
    unfold State.pushStop at h
    cases hm : s.msw.pe <;> simp only [Bool.not_true, Bool.not_false, Bool.true_and, Bool.false_and] at h ⊢
    rw [beq_eq_false_iff_ne]
    intro e
    simp [hm, e] at h
  simp only [pushOperand, look_bind, hw]
  simp only [Bool.false_eq_true, ↓reduceIte]
  rw [push16_eq, h]

/-- A push at SP = 1 in real mode is shutdown, with SP and the word free. -/
theorem pushOperand_wraps (v : Word) {s : State} (hp : s.msw.pe = false) (hs : s.reg SP = 1) :
    pushOperand v s = .error .shutdown
      ((({ s with free := s.free + 2 } : State).freeStackWord 0xFFFF s.free).setReg SP (Config.freeWord (s.free + 1))) := by
  have hw : (!s.msw.pe && s.reg SP == 1) = true := by simp [hp, hs]
  simp only [pushOperand, look_bind, hw, ↓reduceIte, draw_bind, update_bind, stop_apply]

/-- The test of a POP passes where the word may be read. -/
theorem checkPop_eq {s : State} (h : s.accessStop .ss (s.reg SP) .word false = none) : checkPop s = .ok () s := by
  have hw : (!s.msw.pe && s.reg SP == 0xFFFF) = false := by
    cases hm : s.msw.pe <;> simp only [Bool.not_true, Bool.not_false, Bool.true_and, Bool.false_and]
    rw [beq_eq_false_iff_ne]
    intro e
    simp [e, State.accessStop, segmentStop, hm] at h
  simp only [checkPop, look_bind, hw]
  simp only [Bool.false_eq_true, ↓reduceIte]
  exact check_none (c := fun s => s.accessStop .ss (s.reg SP) .word false) h

/-- A descriptor that lies in its table, all of it inside the physical space. -/
theorem readDescriptor_ok {sel : Word} {a : Addr} {s : State} (miss : Stop) (h : s.descriptorAddr sel = some a)
    (ht : s.crossesTop a 4 = false) : readDescriptor sel miss s = .ok (s.descriptorAt a) s := by
  simp [readDescriptor_eq, h, ht]

/-! Control transfers within the segment. -/

theorem jumpTo_eq (t : Word) (s : State) :
    jumpTo t s = if s.targetInLimit t then .ok () (s.transfer t) else .error (generalProtection 0) s := by
  simp only [jumpTo, requireTarget, require_bind, update_apply]

theorem jumpIf_eq (cond : State → Bool) (disp : Byte) (s : State) :
    jumpIf cond disp s =
      if cond s then
        if s.targetInLimit (s.shortTarget disp) then .ok () (s.transfer (s.shortTarget disp))
        else .error (generalProtection 0) s
      else .ok () s := by
  simp only [jumpIf, look_bind]
  cases cond s
  · rfl
  · simp [jumpTo_eq]

theorem callTo_eq (t : Word) (s : State) (hw : s.stackWraps 1 = false) :
    callTo t s =
      if s.targetInLimit t then
        match s.pushStop (s.reg SP - 2) with
        | none => .ok () (((s.store .ss (s.reg SP - 2) .word s.ip).setReg SP (s.reg SP - 2)).transfer t)
        | some e => .error e s
      else .error (generalProtection 0) s := by
  simp only [callTo, requireTarget, require_bind]
  cases s.targetInLimit t
  · rfl
  · simp only [↓reduceIte]
    rw [bind_ok (requireStack_eq hw), look_bind, bind_apply, push16_eq]
    cases s.pushStop (s.reg SP - 2) <;> rfl

theorem returnNear_eq (imm : Word) (s : State) :
    returnNear imm s = match s.accessStop .ss (s.reg SP) .word false with
      | none =>
        if s.targetInLimit (s.load .ss (s.reg SP) .word) then
          .ok () ((s.transfer (s.load .ss (s.reg SP) .word)).setReg SP (s.reg SP + 2 + imm))
        else .error (generalProtection 0) s
      | some e => .error e s := by
  simp only [returnNear, requireTarget, bind_apply, look_apply, segRead_eq]
  cases s.accessStop .ss (s.reg SP) .word false
  · dsimp only [require]
    by_cases h : s.targetInLimit (s.load .ss (s.reg SP) .word) = true
    · rw [if_pos h, if_pos h]
      rfl
    · rw [if_neg h, if_neg h]
  · rfl

/-! Entry and return at the same level. -/

theorem enterSame_eq (c : Descriptor) (csel eoff : Word) (words : List Word) (s : State) :
    enterSame c csel eoff words s = match frameStop s s.ss (s.reg SP) words.length with
      | none =>
        if eoff ≤ c.limit then
          .ok () ((((s.writeFrame s.ss (s.reg SP) words).setReg SP
            (s.reg SP - BitVec.ofNat 16 (2 * words.length))).loadFrom .cs (withRpl csel s.cpl) c).transfer eoff)
        else .error (generalProtection 0) s
      | some e => .error e s := by
  simp only [enterSame, check_bind, require_bind, update_apply]
  cases frameStop s s.ss (s.reg SP) words.length with
  | some e => rfl
  | none => simp only [decide_eq_true_eq]

/-- An exception whose entry completes. -/
theorem takeException_ok {v : Byte} {err : Option Word} {s t : State}
    (h : enter v s.curIp false err s.endInstruction = .ok () t) :
    takeException v err s = .next { t with trap := false } := by
  simp [takeException, h]

/-- In real mode an interrupt is entered by its vector. -/
theorem enter_real {s : State} (h : s.msw.pe = false) (v : Byte) (rip : Word) (soft : Bool) (err : Option Word) :
    enter v rip soft err s = enterReal v rip s := by
  simp [enter, h]

theorem enter_protected {s : State} (h : s.msw.pe = true) (v : Byte) (rip : Word) (soft : Bool) (err : Option Word) :
    enter v rip soft err s = enterProt v rip soft err s := by
  simp [enter, h]

/-- The pushes of ENTER that all succeed. -/
theorem allOrNone_ok {count : Nat} {m : M Word} {s t : State} {v : Word} (h : m s = .ok v t) :
    allOrNone count m s = .ok v t := by
  simp [allOrNone, h]

/-- An access of ENTER that raises an exception: nothing was written. -/
theorem allOrNone_exc {count : Nat} {m : M Word} {s t : State} {v : Byte} {err : Option Word}
    (h : m s = .error (.exc v err) t) : allOrNone count m s = .error (.exc v err) s := by
  simp [allOrNone, h]

/-- A push of ENTER that wraps the stack. -/
theorem allOrNone_shutdown {count : Nat} {m : M Word} {s t : State} (h : m s = .error .shutdown t) :
    allOrNone count m s = .error .shutdown (s.wrapStack count) := by
  simp [allOrNone, h]

/-- Between control transfers outside the entry to protected mode nothing was decoded in real mode. -/
theorem State.decodedReal_none {s : State} (h : s.realQueue = none) : s.decodedReal = false := by
  simp [State.decodedReal, h]

/-! Repeated string instructions. -/

theorem iterate_zero {i : Instr} {compares z : Bool} {once : M Unit} {s : State} (h : s.reg CX = 0) :
    iterate i compares z once s = .ok () s := by
  simp only [iterate, look_bind, h, ↓reduceIte]
  rfl

theorem iterate_step {i : Instr} {compares z : Bool} {once : M Unit} {s u : State} (h : s.reg CX ≠ 0) (hu : once s = .ok () u) :
    iterate i compares z once s =
      if u.reg CX - 1 = 0 ∨ (compares = true ∧ u.flags.zf ≠ z) then .ok () (u.setReg CX (u.reg CX - 1))
      else .ok () ((u.setReg CX (u.reg CX - 1)).nextIteration i) := by
  simp only [iterate, h, ↓reduceIte, bind_apply, hu, update_apply, look_apply, State.setReg_reg, State.setReg_flags,
    Bool.or_eq_true, beq_iff_eq, Bool.and_eq_true, bne_iff_ne]
  split <;> rfl

end Sys2Proof.Machine
end

