-- ==== Sys2Proof/Laws/Entries.lean ====
section
/-! SUPPORT. The entries of protected mode, each shared operation said once: through the IDT, through a gate, into an inner
level; and what becomes of an entry that raises an exception. -/

namespace Sys2Proof.Machine

/-! Selectors and the vectors of stops. -/

theorem isNull_iff (sel : Word) : isNull sel = true ↔ sel &&& 0xFFFC = 0 := by simp [isNull]

theorem isNull_false {sel : Word} (h : sel &&& 0xFFFC ≠ 0) : isNull sel = false := by simpa [isNull] using h

theorem idtError_eq (v : Byte) : idtError v = BitVec.ofNat 16 (8 * v.toNat + 2) := by revert v; decide +kernel

/-- A segmented access raises no other exception than 12 and 13. -/
theorem segmentStop_exc {s : State} {g : SegReg} {isStack : Bool} {off : Word} {w : Width} {write : Bool} {v : Byte}
    {e : Option Word} (h : segmentStop s g isStack off w write = some (.exc v e)) : v = 12 ∨ v = 13 := by
  unfold segmentStop at h
  cases isStack <;> simp only [] at h <;> (repeat' split at h) <;> simp_all

theorem frameStop_exc {s : State} {g : SegReg} {v : Byte} {e : Option Word} {n : Nat} {sp : Word}
    (h : frameStop s g sp n = some (.exc v e)) : v = 12 ∨ v = 13 := by
  induction n generalizing sp with
  | zero => cases h
  | succ k ih =>
    simp only [frameStop] at h
    cases hq : segmentStop s g true (sp - 2) .word true with
    | none =>
      rw [hq] at h
      exact ih h
    | some x =>
      rw [hq] at h
      cases h
      exact segmentStop_exc hq

/-- A frame that finds no room in a writable data segment is StackFault(0). -/
theorem frameStop_writable {s : State} {d : Descriptor} {sel sp : Word} {v : Byte} {e : Option Word} {n : Nat}
    (hpe : s.msw.pe = true) (hd : d.isWritableData = true)
    (h : frameStop s (d.toSegReg sel) sp n = some (.exc v e)) : v = 12 ∧ e = some 0 := by
  have hw : (d.toSegReg sel).rights.writable = true := by
    simp only [Descriptor.isWritableData, Bool.and_eq_true, Bool.not_eq_true'] at hd
    simp_all [Descriptor.toSegReg, Rights.writable]
  induction n generalizing sp with
  | zero => cases h
  | succ k ih =>
    simp only [frameStop] at h
    cases hq : segmentStop s (d.toSegReg sel) true (sp - 2) .word true with
    | none =>
      rw [hq] at h
      exact ih h
    | some x =>
      rw [hq] at h
      cases h
      simp only [segmentStop, hpe, hw, Bool.not_true, Bool.false_eq_true, ↓reduceIte] at hq
      (repeat' split at hq) <;> simp_all

/-! Through the IDT. -/

/-- A vector beyond the IDT. -/
theorem enterProt_beyond {s : State} {v : Byte} (rip : Word) (soft : Bool) (err : Option Word)
    (h : s.idtr.limit.toNat < 8 * v.toNat + 7) :
    enterProt v rip soft err s = .error (generalProtection (idtError v)) s := by
  simp only [enterProt, require_bind]
  rw [if_neg (by simpa using h)]

/-- `EnterProt` for a vector inside the IDT: the tests of its gate, then the entry through it. -/
theorem enterProt_eq {s : State} {v : Byte} (rip : Word) (soft : Bool) (err : Option Word) (h : s.InIdt v) :
    enterProt v rip soft err s =
      if (s.descriptorAt (s.gateAddr v)).systemType == some 5 || (s.descriptorAt (s.gateAddr v)).systemType == some 6 ||
          (s.descriptorAt (s.gateAddr v)).systemType == some 7 then
        if !soft || decide (s.cpl ≤ (s.descriptorAt (s.gateAddr v)).dpl) then
          if (s.descriptorAt (s.gateAddr v)).present then
            if (s.descriptorAt (s.gateAddr v)).systemType == some 5 then
              enterTaskGate (s.descriptorAt (s.gateAddr v)) rip err s
            else enterGate (s.descriptorAt (s.gateAddr v)) rip err s
          else .error (notPresent (idtError v)) s
        else .error (generalProtection (idtError v)) s
      else .error (generalProtection (idtError v)) s := by
  have hr : (do readDescriptorAt (← look fun s => s.idtr.base + BitVec.ofNat 24 (8 * v.toNat)) : M Descriptor) s =
      .ok (s.descriptorAt (s.gateAddr v)) s := by
    rw [look_bind]
    change readDescriptorAt (s.gateAddr v) s = _
    simp only [readDescriptorAt, require_bind, h.2, look_apply, Bool.not_false, ↓reduceIte]
  simp only [enterProt, require_bind, h.1, decide_true, ↓reduceIte]
  rw [bind_ok hr]
  simp only [require_bind]
  cases (s.descriptorAt (s.gateAddr v)).systemType == some 5 <;> rfl

theorem Descriptor.isIdtGate_iff (g : Descriptor) :
    (g.systemType == some 5 || g.systemType == some 6 || g.systemType == some 7) = true ↔ g.IsIdtGate := by
  simp [Descriptor.IsIdtGate, or_assoc]

theorem State.HasGate.inIdt {s : State} {v : Byte} (h : s.HasGate v) : s.InIdt v := ⟨h.1, h.2.1⟩

theorem State.HasGate.isIdtGate {s : State} {v : Byte} (h : s.HasGate v) :
    (s.descriptorAt (s.gateAddr v)).IsIdtGate := .inr h.2.2

theorem State.HasGate.not_task {s : State} {v : Byte} (h : s.HasGate v) :
    ((s.descriptorAt (s.gateAddr v)).systemType == some 5) = false := by
  rcases h.2.2 with h | h <;> rw [h] <;> rfl

/-- A task gate to an available TSS of the GDT. -/
theorem taskGateTarget_ok {s : State} {g : Descriptor} {b : Addr} (hn : s.Names g.gateSelector b)
    (ht : selectorTi g.gateSelector = false) (h : (s.descriptorAt b).systemType = some 1) :
    taskGateTarget g s = .ok (s.descriptorAt b) s := by
  simp only [taskGateTarget, require_bind, isNull_false hn.1, ht, Bool.not_false, Bool.and_self, ↓reduceIte]
  rw [bind_ok (readDescriptor_ok _ hn.2.1 hn.2.2)]
  simp only [require_bind, h]
  rfl

/-- Entry through an interrupt or trap gate whose destination passes its tests. -/
theorem enterGate_eq {s : State} {g : Descriptor} {a : Addr} (rip : Word) (err : Option Word)
    (hn : s.NamesCode g.gateSelector a) (hd : (s.descriptorAt a).dpl ≤ s.cpl) :
    enterGate g rip err s = (do
      if (s.descriptorAt a).isConforming || (s.descriptorAt a).dpl == s.cpl then
        enterSame (s.descriptorAt a) g.gateSelector g.limit ([s.flags.image, s.cs.sel, rip] ++ err.toList)
      else
        enterInner (s.descriptorAt a) g.gateSelector g.limit (pure ([s.flags.image, s.cs.sel, rip] ++ err.toList))
      update fun s => { s with flags := s.flags.enterGate (g.systemType == some 7) } : M Unit) s := by
  simp only [enterGate, require_bind, isNull_false hn.1.1, Bool.not_false, ↓reduceIte]
  rw [bind_ok (readDescriptor_ok _ hn.1.2.1 hn.1.2.2)]
  simp only [require_bind, hn.2.1, hn.2.2, hd, decide_true, Bool.and_self, ↓reduceIte, look_bind]

/-! Into an inner level. -/

/-- The two words of an inner stack in the TSS, read one after the other. -/
theorem readPhysical_tssStack {s : State} {n : Nat}
    (h : s.crossesTop (s.tr.base + BitVec.ofNat 24 (2 + 4 * n)) 2 = false) :
    (do readPhysical (← look fun s => s.tr.base + BitVec.ofNat 24 (2 + 4 * n)) : M Word) s = .ok (s.tssStack n).1 s ∧
      (do readPhysical (← look fun s => s.tr.base + BitVec.ofNat 24 (4 + 4 * n)) : M Word) s =
        .ok (s.tssStack n).2 s := by
  have e : s.tr.base + BitVec.ofNat 24 (4 + 4 * n) = s.tr.base + BitVec.ofNat 24 (2 + 4 * n) + 2#24 := by
    rw [BitVec.add_assoc]
    congr 1
    apply BitVec.eq_of_toNat_eq
    simp
    omega
  have hc : s.crossesTop (s.tr.base + BitVec.ofNat 24 (2 + 4 * n)) 1 = false ∧
      s.crossesTop (s.tr.base + BitVec.ofNat 24 (4 + 4 * n)) 1 = false := by
    rw [e]
    unfold State.crossesTop at h ⊢
    cases hq : s.msw.pe || !s.board.a20A23Ignored
    · exact ⟨rfl, rfl⟩
    · rw [hq] at h
      simpa [List.range_succ] using h
  constructor
  · simp only [look_bind, readPhysical, require_bind, hc.1, look_apply, Bool.not_false, ↓reduceIte]
    rfl
  · simp only [look_bind, readPhysical, require_bind, hc.2, look_apply, Bool.not_false, ↓reduceIte]
    rfl

/-- The stack of a level passes its tests. -/
theorem innerStack_ok {s : State} {n k : Nat} {b : Addr} (h : s.HasInnerStack n b k) :
    innerStack n s =
      .ok ((s.tssStack n).1, (s.descriptorAt b).toSegReg (s.tssStack n).2, s.descriptorAt b) s := by
  obtain ⟨hl, hc, hn, hrpl, hdpl, hw, hp, -⟩ := h
  simp only [innerStack, check_bind, if_pos hl]
  rw [bind_ok (readPhysical_tssStack hc).1, bind_ok (readPhysical_tssStack hc).2, require_bind, isNull_false hn.1]
  simp only [Bool.not_false, ↓reduceIte]
  rw [bind_ok (readDescriptor_ok _ hn.2.1 hn.2.2)]
  simp only [require_bind, hrpl, hdpl, hw, hp, beq_self_eq_true, Bool.and_self, ↓reduceIte]
  rfl

/-- The stack of a level fails a test. -/
theorem innerStack_fails {s : State} {n : Nat} {v : Byte} {e : Word} (h : s.InnerStackFails n v e) :
    innerStack n s = .error (.exc v (some e)) s := by
  simp only [State.InnerStackFails] at h
  simp only [innerStack, check_bind]
  split at h
  · obtain ⟨rfl, rfl⟩ := h
    rw [if_neg (by omega)]
    rfl
  rw [if_pos (by omega)]
  obtain ⟨hc, h⟩ := h
  simp only []
  rw [bind_ok (readPhysical_tssStack hc).1, bind_ok (readPhysical_tssStack hc).2, require_bind]
  rcases h with ⟨h, rfl, rfl⟩ | ⟨h, hm, rfl, rfl⟩ | ⟨b, hn, h⟩
  · rw [(isNull_iff _).2 h]
    rfl
  · rw [isNull_false h, bind_error (by rw [readDescriptor_eq, hm])]
    rfl
  rw [isNull_false hn.1]
  simp only [Bool.not_false, ↓reduceIte]
  rw [bind_ok (readDescriptor_ok _ hn.2.1 hn.2.2)]
  simp only [require_bind]
  rcases h with ⟨hu, rfl, rfl⟩ | ⟨⟨hrpl, hdpl, hw⟩, hp, rfl, rfl⟩
  · by_cases hl : selectorRpl (s.tssStack n).2 = n ∧ (s.descriptorAt b).dpl = n
    · rw [if_pos (by simpa using hl), if_neg fun hw => hu ⟨hl.1, hl.2, hw⟩]
      rfl
    · rw [if_neg (by simpa using hl)]
      rfl
  · rw [if_pos (by simp [hrpl, hdpl]), if_pos hw, hp]
    rfl

/-- A stack that fails a test is exception 10 or 12. -/
theorem State.InnerStackFails.vector {s : State} {n : Nat} {v : Byte} {e : Word} (h : s.InnerStackFails n v e) :
    v = 10 ∨ v = 12 := by
  simp only [State.InnerStackFails] at h
  split at h
  · exact .inl h.1
  · rcases h.2 with h | h | ⟨_, -, h | h⟩
    · exact .inl h.2.1
    · exact .inl h.2.2.1
    · exact .inl h.2.1
    · exact .inr h.2.2.1

/-- The parameter words of a CALL are read from the last to the first. -/
theorem readParameters_succ (n : Nat) (s : State) :
    readParameters (n + 1) s =
      match s.accessStop .ss (s.reg SP + BitVec.ofNat 16 (2 * n)) .word false with
      | some e => .error e s
      | none =>
        (readParameters n >>= fun rest => pure ((s.load .ss (s.reg SP + BitVec.ofNat 16 (2 * n)) .word : Word) :: rest)) s
    := by
  conv => lhs; rw [readParameters, bind_apply, look_bind, segRead_eq]
  cases s.accessStop .ss (s.reg SP + BitVec.ofNat 16 (2 * n)) .word false <;> rfl

/-- The parameter words of a CALL, all of them readable. -/
theorem readParameters_ok {s : State} {n : Nat} (h : s.Pops n) :
    readParameters n s = .ok ((List.range n).map fun k =>
      s.load .ss (s.reg SP + BitVec.ofNat 16 (2 * (n - 1 - k))) .word) s := by
  induction n with
  | zero => rfl
  | succ n ih =>
    simp only [readParameters_succ, h n (by omega)]
    rw [bind_ok (ih fun k hk => h k (by omega)), pure_apply, List.range_succ_eq_map, List.map_cons, List.map_map]
    congr 3
    funext k
    simp only [Function.comp_apply, Nat.succ_eq_add_one]
    congr 4
    omega

/-- The last parameter word that may not be read stops the CALL. -/
theorem readParameters_stop {s : State} {n k : Nat} {e : Stop} (hk : k < n)
    (hj : ∀ j, k < j → j < n → s.accessStop .ss (s.reg SP + BitVec.ofNat 16 (2 * j)) .word false = none)
    (he : s.accessStop .ss (s.reg SP + BitVec.ofNat 16 (2 * k)) .word false = some e) :
    readParameters n s = .error e s := by
  induction n with
  | zero => omega
  | succ n ih =>
    by_cases hkn : k = n
    · subst hkn
      simp only [readParameters_succ, he]
    · simp only [readParameters_succ, hj n (by omega) (by omega)]
      exact bind_error (ih (by omega) fun j h1 h2 => hj j h1 (by omega))

/-- Entry into an inner level whose stack passes its tests: the words to push, the room for them, the limit. -/
theorem enterInner_eq {s : State} {c : Descriptor} {csel eoff : Word} {b : Addr} {ws : M (List Word)} {l : List Word}
    (h : s.HasInnerStack c.dpl b 0) (hw : ws s = .ok l s) :
    enterInner c csel eoff ws s =
      match frameStop s (segmentOf (s.descriptorAt b) (s.tssStack c.dpl).2) (s.tssStack c.dpl).1 (l.length + 2) with
      | some e => .error e s
      | none =>
        if eoff ≤ c.limit then
          .ok () ((((((s.writeFrame (segmentOf (s.descriptorAt b) (s.tssStack c.dpl).2) (s.tssStack c.dpl).1
            (s.ss.sel :: s.reg SP :: l)).setAccessed (s.descriptorAt b)).setSeg .ss
              (segmentOf (s.descriptorAt b) (s.tssStack c.dpl).2)).setReg SP
                ((s.tssStack c.dpl).1 - BitVec.ofNat 16 (2 * (l.length + 2)))).loadFrom .cs
                  (withRpl csel c.dpl) c).transfer eoff)
        else .error (generalProtection 0) s := by
  unfold enterInner
  rw [bind_ok (innerStack_ok h), bind_ok hw, check_bind]
  change (match frameStop s (segmentOf (s.descriptorAt b) (s.tssStack c.dpl).2) (s.tssStack c.dpl).1 (l.length + 2) with
    | none => _
    | some e => _) = _
  cases frameStop s (segmentOf (s.descriptorAt b) (s.tssStack c.dpl).2) (s.tssStack c.dpl).1 (l.length + 2) with
  | some e => rfl
  | none => simp only [require_bind, decide_eq_true_eq]; rfl

/-! An entry that raises an exception. -/

/-- The three software interrupts are one operation. -/
theorem IsSoftwareInterrupt.exec_eq {i : Instr} {s : State} {v : Byte} (h : IsSoftwareInterrupt i s v) :
    exec i s = perform (softwareInterrupt v) s := by
  rcases h with rfl | ⟨rfl, rfl⟩ | ⟨rfl, rfl, h⟩
  · rfl
  · rfl
  · change perform _ s = _
    rw [if_pos h]

/-- A software interrupt raises the exception of its entry as itself. -/
theorem raises_of_enterProt {i : Instr} {s : State} {v x : Byte} {e : Option Word} (hpe : s.msw.pe = true) (hr : s.Ready)
    (hi : IsSoftwareInterrupt i s v) (hx : x ≠ 16) (h : enterProt v s.ip true none s = .error (.exc x e) s) :
    Raises i s x e := by
  unfold Raises
  rw [hi.exec_eq, perform_eq hr.1 hr.2]
  simp only [softwareInterrupt, look_bind, enter_protected hpe, h]
  exact settle_exc e s hx

/-- An exception whose entry raises one is a double fault. -/
theorem doubleFaults_of_enterProt {s : State} {v x : Byte} {e err : Option Word} (hpe : s.msw.pe = true)
    (h : enterProt v s.curIp false err s.endInstruction = .error (.exc x e) s.endInstruction) :
    s.DoubleFaults v err := by
  have ht : takeException v err s = doubleFault { s with pfx := noPrefixes, trap := false } := by
    simp only [takeException, enter_protected (s := s.endInstruction) hpe, h]
    rfl
  constructor
  · intro t hok
    rw [ht]
    simp only [doubleFault]
    rw [hok]
  · intro x e t herr
    rw [ht]
    simp only [doubleFault]
    rw [herr]

end Sys2Proof.Machine
end

