-- ==== Sys2Proof/Laws/Memory.lean ====
section
/-! SUPPORT. Reading after writing, and the canonical form of memory, which every memory operation keeps. -/

namespace Sys2Proof.Machine

/-! The list of cells. -/

theorem Memory.wfFrom_mono {low low' : Nat} {m : List Host.Cell} (h : low' ≤ low) (hm : Memory.wfFrom low m = true) :
    Memory.wfFrom low' m = true := by
  cases m with
  | nil => rfl
  | cons c rest =>
    simp only [Memory.wfFrom, Bool.and_eq_true, decide_eq_true_eq] at hm ⊢
    exact ⟨⟨⟨by omega, hm.1.1.2⟩, hm.1.2⟩, hm.2⟩

/-- Below its first entry a canonical list reads as nothing written. -/
theorem Memory.read_below {low a : Nat} {m : List Host.Cell} (hm : Memory.wfFrom low m = true) (h : a < low) :
    Memory.read m a = unlisted := by
  induction m generalizing low with
  | nil => rfl
  | cons c rest ih =>
    simp only [Memory.wfFrom, Bool.and_eq_true, decide_eq_true_eq] at hm
    have hne : c.1 ≠ a := by omega
    simp only [Memory.read, if_neg hne]
    exact ih hm.2 (by omega)

/-- A byte reads as it was last written. -/
theorem Memory.read_write {low a : Nat} {m : List Host.Cell} {v : Byte} (hm : Memory.wfFrom low m = true) :
    Memory.read (Memory.write m a v) a = v := by
  induction m generalizing low with
  | nil =>
    simp only [Memory.write]
    split
    · simp_all [Memory.read]
    · simp [Memory.read]
  | cons c rest ih =>
    simp only [Memory.wfFrom, Bool.and_eq_true, decide_eq_true_eq] at hm
    simp only [Memory.write]
    split
    · rename_i hlt
      have hne : c.1 ≠ a := by omega
      simp only [Memory.read, if_neg hne]
      exact ih hm.2
    · split
      · rename_i heq
        split
        · rename_i hv
          rw [hv]
          exact Memory.read_below hm.2 (by omega)
        · simp [Memory.read]
      · split
        · rename_i hv
          have hne : c.1 ≠ a := by omega
          rw [hv]
          simp only [Memory.read, if_neg hne]
          exact Memory.read_below hm.2 (by omega)
        · simp [Memory.read]

/-- Every other byte reads as before. -/
theorem Memory.read_write_ne {a b : Nat} (m : List Host.Cell) (v : Byte) (h : b ≠ a) :
    Memory.read (Memory.write m a v) b = Memory.read m b := by
  have h' : a ≠ b := fun e => h e.symm
  induction m with
  | nil =>
    simp only [Memory.write]
    split <;> simp [Memory.read, h']
  | cons c rest ih =>
    simp only [Memory.write]
    split
    · simp only [Memory.read, ih]
    · split
      · rename_i heq
        have hc : c.1 ≠ b := by omega
        split <;> simp [Memory.read, hc, h']
      · split <;> simp [Memory.read, h']

theorem Memory.wfFrom_write {low a : Nat} {m : List Host.Cell} {v : Byte} (hm : Memory.wfFrom low m = true)
    (hl : low ≤ a) (ha : a < 2 ^ 24) : Memory.wfFrom low (Memory.write m a v) = true := by
  induction m generalizing low with
  | nil =>
    simp only [Memory.write]
    split
    · rfl
    · simp_all [Memory.wfFrom]
  | cons c rest ih =>
    have hm' := hm
    simp only [Memory.wfFrom, Bool.and_eq_true, decide_eq_true_eq] at hm'
    simp only [Memory.write]
    split
    · simp only [Memory.wfFrom, Bool.and_eq_true, decide_eq_true_eq]
      exact ⟨hm'.1, ih hm'.2 (by omega)⟩
    · split
      · split
        · exact Memory.wfFrom_mono (by omega) hm'.2
        · rename_i heq hv
          simp only [Memory.wfFrom, Bool.and_eq_true, decide_eq_true_eq, bne_iff_ne]
          exact ⟨⟨⟨hl, ha⟩, hv⟩, heq ▸ hm'.2⟩
      · split
        · exact hm
        · rename_i hv
          simp only [Memory.wfFrom, Bool.and_eq_true, decide_eq_true_eq, bne_iff_ne]
          exact ⟨⟨⟨hl, ha⟩, hv⟩, ⟨⟨⟨by omega, hm'.1.1.2⟩, by simpa using hm'.1.2⟩, hm'.2⟩⟩

/-- Writing keeps the canonical form. -/
theorem Memory.wf_write {a : Nat} {m : List Host.Cell} {v : Byte} (hm : Memory.wf m = true) (ha : a < 2 ^ 24) :
    Memory.wf (Memory.write m a v) = true := Memory.wfFrom_write hm (Nat.zero_le a) ha

/-! The operations over the state. -/

theorem State.physical_lt (s : State) (a : Addr) : s.physical a < 2 ^ 24 := by
  have := a.isLt
  unfold State.physical
  split <;> omega

/-- The location depends on nothing but the mode and the board. -/
theorem State.physical_congr {s t : State} (h : t.msw = s.msw) (hb : t.board = s.board) (a : Addr) :
    t.physical a = s.physical a := by
  simp [State.physical, h, hb]

@[simp] theorem State.physical_setReg (s : State) (r : Reg) (v : Word) (a : Addr) :
    (s.setReg r v).physical a = s.physical a := rfl
@[simp] theorem State.physical_writeByte (s : State) (b : Addr) (v : Byte) (a : Addr) :
    (s.writeByte b v).physical a = s.physical a := rfl

/-- A byte stored in RAM reads back. -/
theorem State.readByte_writeByte {s : State} (hm : Memory.wf s.mem = true) {a : Addr}
    (hr : s.isRam (s.physical a) = true) (v : Byte) : (s.writeByte a v).readByte a = v := by
  have hk : s.board.kindAt (s.physical a) = .ram := by simpa [State.isRam] using hr
  simp [State.readByte, State.byteAt, hk, hr, Memory.read_write hm]

/-- The contents of every other location are as before. -/
theorem State.read_writeByte_ne (s : State) {a : Addr} {l : Nat} (v : Byte) (h : l ≠ s.physical a) :
    Memory.read (s.writeByte a v).mem l = Memory.read s.mem l := by
  rw [State.writeByte_mem]
  split
  · exact Memory.read_write_ne s.mem v h
  · rfl

/-- Every byte at another location reads as before. -/
theorem State.readByte_writeByte_ne (s : State) {a b : Addr} (v : Byte) (h : s.physical b ≠ s.physical a) :
    (s.writeByte a v).readByte b = s.readByte b := by
  unfold State.readByte State.byteAt
  rw [State.physical_writeByte, State.read_writeByte_ne s v h]
  rfl

theorem State.writeByte_wf {s : State} (hm : Memory.wf s.mem = true) (a : Addr) (v : Byte) :
    Memory.wf (s.writeByte a v).mem = true := by
  rw [State.writeByte_mem]
  split
  · exact Memory.wf_write hm (s.physical_lt a)
  · exact hm

theorem State.writeWord_wf {s : State} (hm : Memory.wf s.mem = true) (a : Addr) (v : Word) :
    Memory.wf (s.writeWord a v).mem = true := State.writeByte_wf (State.writeByte_wf hm a _) (a + 1) _

theorem State.storeVia_wf {s : State} (hm : Memory.wf s.mem = true) (g : SegReg) (o : Word) (w : Width)
    (v : BitVec w.bits) : Memory.wf (s.storeVia g o w v).mem = true := by
  cases w
  · exact State.writeByte_wf hm _ _
  · exact State.writeWord_wf hm _ _

theorem State.store_wf {s : State} (hm : Memory.wf s.mem = true) (r : SReg) (o : Word) (w : Width)
    (v : BitVec w.bits) : Memory.wf (s.store r o w v).mem = true := State.storeVia_wf hm _ o w v

theorem State.setMem_wf {s : State} (hm : Memory.wf s.mem = true) (m : MemOp) (d : Word) (w : Width)
    (v : BitVec w.bits) : Memory.wf (s.setMem m d w v).mem = true := State.store_wf hm _ _ w v

theorem State.setReg_wf {s : State} (hm : Memory.wf s.mem = true) (r : Reg) (v : Word) :
    Memory.wf (s.setReg r v).mem = true := hm

theorem State.putReg_wf {s : State} (hm : Memory.wf s.mem = true) (w : Width) (r : Reg) (v : BitVec w.bits) :
    Memory.wf (s.putReg w r v).mem = true := by simpa using hm

theorem State.setRm_wf {s : State} (hm : Memory.wf s.mem = true) (rm : Rm) (w : Width) (v : BitVec w.bits) :
    Memory.wf (s.setRm rm w v).mem = true := by
  cases rm
  · exact State.putReg_wf hm w _ v
  · exact State.setMem_wf hm _ 0 w v

theorem State.setAccessed_wf {s : State} (hm : Memory.wf s.mem = true) (d : Descriptor) :
    Memory.wf (s.setAccessed d).mem = true := by
  unfold State.setAccessed
  split
  · exact hm
  · exact State.writeByte_wf hm _ _

theorem State.loadFrom_wf {s : State} (hm : Memory.wf s.mem = true) (r : SReg) (sel : Word) (d : Descriptor) :
    Memory.wf (s.loadFrom r sel d).mem = true := by
  simpa [State.loadFrom] using State.setAccessed_wf hm d

theorem State.writeFrame_wf {s : State} (hm : Memory.wf s.mem = true) (g : SegReg) (sp : Word) (words : List Word) :
    Memory.wf (s.writeFrame g sp words).mem = true := by
  induction words generalizing s sp with
  | nil => exact hm
  | cons v rest ih => exact ih (State.storeVia_wf hm g _ .word v) (sp - 2)

theorem State.writeWords_wf {s : State} (hm : Memory.wf s.mem = true) (a : Addr) (words : List Word) :
    Memory.wf (s.writeWords a words).mem = true := by
  induction words generalizing s a with
  | nil => exact hm
  | cons v rest ih => exact ih (State.writeWord_wf hm a v) (a + 2)

theorem State.setSystemType_wf {s : State} (hm : Memory.wf s.mem = true) (a : Addr) (t : Byte) :
    Memory.wf (s.setSystemType a t).mem = true := State.writeByte_wf hm _ _

theorem State.saveTask_wf {s : State} (hm : Memory.wf s.mem = true) (k : SwitchKind) (rip : Word) :
    Memory.wf (s.saveTask k rip).mem = true := State.writeWords_wf hm _ _

theorem State.linkTasks_wf {s : State} (hm : Memory.wf s.mem = true) (k : SwitchKind) (t : Descriptor) :
    Memory.wf (s.linkTasks k t).mem = true := by
  cases k
  · exact State.setSystemType_wf (State.setSystemType_wf hm _ _) _ _
  · exact State.writeWord_wf (State.setSystemType_wf hm _ _) _ _
  · exact State.writeWord_wf (State.setSystemType_wf hm _ _) _ _
  · exact State.setSystemType_wf hm _ _

theorem State.freeFrame_wf {s : State} (hm : Memory.wf s.mem = true) (t : Word) (n count : Nat) :
    Memory.wf (s.freeFrame t n count).mem = true := by
  induction count generalizing s t n with
  | zero => exact hm
  | succ k ih => exact ih (State.store_wf hm _ _ .word _) _ _

theorem State.wrapStack_wf {s : State} (hm : Memory.wf s.mem = true) (count : Nat) :
    Memory.wf (s.wrapStack count).mem = true := by
  have h0 : Memory.wf ({ s with free := s.free + count } : State).mem = true := hm
  exact State.setReg_wf (State.freeFrame_wf h0 _ _ _) _ _

theorem State.freeStackWords_wf {s : State} (hm : Memory.wf s.mem = true) (t : Word) (n count : Nat) :
    Memory.wf (s.freeStackWords t n count).mem = true := by
  induction count generalizing s t n with
  | zero => exact hm
  | succ k ih => exact ih (State.store_wf (State.store_wf hm _ _ .byte _) _ _ .byte _) _ _

theorem State.storeTable_wf {s : State} (hm : Memory.wf s.mem = true) (m : MemOp) (t : TableReg) (n : Nat) :
    Memory.wf (s.storeTable m t n).mem = true :=
  State.setMem_wf (State.setMem_wf (State.setMem_wf hm m 0 .word _) m 2 .word _) m 4 .word _

theorem State.placeCode_wf {s : State} (hm : Memory.wf s.mem = true) (off : Word) (bytes : List Byte) :
    Memory.wf (s.placeCode off bytes).mem = true := by
  induction bytes generalizing s off with
  | nil => exact hm
  | cons v rest ih =>
    have h : Memory.wf (s.placeByte (s.physical (s.cs.base + zeroExtend24 off)) v).mem = true :=
      Memory.wf_write hm (s.physical_lt _)
    exact ih h _

/-- The machine starts with the canonical form. -/
theorem State.reset_wf : Memory.wf State.reset.mem = true := rfl

end Sys2Proof.Machine
end

