-- ==== Sys2Proof/Laws/PerInstr.lean ====
section
/-! SUPPORT. What holds of every instruction as syntax, one lemma per constructor: its encoding without prefixes has one
to six bytes (30_encoding.md R155 to R162). -/

namespace Sys2Proof.Laws

/-- The encoding of an instruction, without its prefixes, has one to six bytes. -/
def WellEncoded.Statement (i : Instr) : Prop := 1 ≤ (encode i).length ∧ (encode i).length ≤ 6

/-- The mod reg r/m byte and the displacement are one to three bytes. -/
theorem WellEncoded.memOp_length (m : MemOp) (reg : Reg) :
    1 ≤ (m.encode reg).length ∧ (m.encode reg).length ≤ 3 := by
  cases m <;> simp [MemOp.encode]

theorem WellEncoded.rm_length (rm : Rm) (reg : Reg) : 1 ≤ (rm.encode reg).length ∧ (rm.encode reg).length ≤ 3 := by
  cases rm
  · simp [Rm.encode]
  · exact memOp_length _ reg

/-- A list of known length. -/
theorem WellEncoded.known {l : List Byte} (h : (Nat.ble 1 l.length && Nat.ble l.length 6) = true) :
    1 ≤ l.length ∧ l.length ≤ 6 := by
  simpa using h

/-- An opcode and an operand. -/
theorem WellEncoded.withOperand {l : List Byte} (op : Byte) (h : 1 ≤ l.length ∧ l.length ≤ 3) :
    1 ≤ (op :: l).length ∧ (op :: l).length ≤ 6 := by
  simp only [List.length_cons]
  omega

/-- The byte 0x0F, an opcode and an operand. -/
theorem WellEncoded.withPage {l : List Byte} (page op : Byte) (h : 1 ≤ l.length ∧ l.length ≤ 3) :
    1 ≤ (page :: op :: l).length ∧ (page :: op :: l).length ≤ 6 := by
  simp only [List.length_cons]
  omega

/-- An opcode, an operand and an immediate byte. -/
theorem WellEncoded.withByte {l : List Byte} (op v : Byte) (h : 1 ≤ l.length ∧ l.length ≤ 3) :
    1 ≤ (op :: (l ++ [v])).length ∧ (op :: (l ++ [v])).length ≤ 6 := by
  simp only [List.length_cons, List.length_append, List.length_nil]
  omega

/-- An opcode, an operand and an immediate word. -/
theorem WellEncoded.withWord {l : List Byte} (op : Byte) (v : Word) (h : 1 ≤ l.length ∧ l.length ≤ 3) :
    1 ≤ (op :: (l ++ wordBytes v)).length ∧ (op :: (l ++ wordBytes v)).length ≤ 6 := by
  simp only [List.length_cons, List.length_append, List.length_nil, wordBytes]
  omega

theorem WellEncoded.immed_length (reg : Reg) (rm : Rm) (i : AluImm) :
    1 ≤ (encodeImmed reg rm i).length ∧ (encodeImmed reg rm i).length ≤ 6 :=
  match i with
  | .byte false v => withByte _ v (rm_length rm reg)
  | .byte true v => withByte _ v (rm_length rm reg)
  | .word v => withWord _ v (rm_length rm reg)
  | .sx v => withByte _ v (rm_length rm reg)

theorem WellEncoded.accImm_length (op : Byte) (i : Imm) :
    1 ≤ (encodeAccImm op i).length ∧ (encodeAccImm op i).length ≤ 6 :=
  match i with
  | .byte _ => known rfl
  | .word _ => known rfl

theorem WellEncoded.movRmReg (w : Width) (rm : Rm) (r : Reg) : Statement (.movRmReg w rm r) := withOperand _ (rm_length rm r)

theorem WellEncoded.movRegRm (w : Width) (r : Reg) (rm : Rm) : Statement (.movRegRm w r rm) := withOperand _ (rm_length rm r)

theorem WellEncoded.movRmImm (rm : Rm) (i : Imm) : Statement (.movRmImm rm i) :=
  match i with
  | .byte v => withByte _ v (rm_length rm 0)
  | .word v => withWord _ v (rm_length rm 0)

theorem WellEncoded.movRegImm (r : Reg) (i : Imm) : Statement (.movRegImm r i) :=
  match i with
  | .byte v => known rfl
  | .word v => known rfl

theorem WellEncoded.movAccMem (w : Width) (off : Word) : Statement (.movAccMem w off) := known rfl

theorem WellEncoded.movMemAcc (w : Width) (off : Word) : Statement (.movMemAcc w off) := known rfl

theorem WellEncoded.movSregRm (sr : SReg) (rm : Rm) : Statement (.movSregRm sr rm) := withOperand _ (rm_length rm sr.field)

theorem WellEncoded.movRmSreg (rm : Rm) (sr : SReg) : Statement (.movRmSreg rm sr) := withOperand _ (rm_length rm sr.field)

theorem WellEncoded.pushRm (rm : Rm) : Statement (.pushRm rm) := withOperand _ (rm_length rm 6)

theorem WellEncoded.pushReg (r : Reg) : Statement (.pushReg r) := known rfl

theorem WellEncoded.pushSreg (sr : SReg) : Statement (.pushSreg sr) := known rfl

theorem WellEncoded.pushImm (i : SxImm) : Statement (.pushImm i) :=
  match i with
  | .word v => known rfl
  | .sx v => known rfl

theorem WellEncoded.pusha : Statement .pusha := known rfl

theorem WellEncoded.popRm (rm : Rm) : Statement (.popRm rm) := withOperand _ (rm_length rm 0)

theorem WellEncoded.popReg (r : Reg) : Statement (.popReg r) := known rfl

theorem WellEncoded.popSreg (sr : SReg) : Statement (.popSreg sr) := known rfl

theorem WellEncoded.popa : Statement .popa := known rfl

theorem WellEncoded.xchgRmReg (w : Width) (rm : Rm) (r : Reg) : Statement (.xchgRmReg w rm r) := withOperand _ (rm_length rm r)

theorem WellEncoded.xchgAx (r : Reg) : Statement (.xchgAx r) := known rfl

theorem WellEncoded.nop : Statement .nop := known rfl

theorem WellEncoded.inPort (w : Width) (port : Byte) : Statement (.inPort w port) := known rfl

theorem WellEncoded.inDx (w : Width) : Statement (.inDx w) := known rfl

theorem WellEncoded.outPort (w : Width) (port : Byte) : Statement (.outPort w port) := known rfl

theorem WellEncoded.outDx (w : Width) : Statement (.outDx w) := known rfl

theorem WellEncoded.xlat : Statement .xlat := known rfl

theorem WellEncoded.lea (r : Reg) (m : MemOp) : Statement (.lea r m) := withOperand _ (memOp_length m r)

theorem WellEncoded.lds (r : Reg) (m : MemOp) : Statement (.lds r m) := withOperand _ (memOp_length m r)

theorem WellEncoded.les (r : Reg) (m : MemOp) : Statement (.les r m) := withOperand _ (memOp_length m r)

theorem WellEncoded.lahf : Statement .lahf := known rfl

theorem WellEncoded.sahf : Statement .sahf := known rfl

theorem WellEncoded.pushf : Statement .pushf := known rfl

theorem WellEncoded.popf : Statement .popf := known rfl

theorem WellEncoded.addRmReg (w : Width) (d : Dir) (rm : Rm) (r : Reg) : Statement (.addRmReg w d rm r) := withOperand _ (rm_length rm r)

theorem WellEncoded.addRmImm (rm : Rm) (i : AluImm) : Statement (.addRmImm rm i) := immed_length 0 rm i

theorem WellEncoded.addAccImm (i : Imm) : Statement (.addAccImm i) := accImm_length 0x04 i

theorem WellEncoded.adcRmReg (w : Width) (d : Dir) (rm : Rm) (r : Reg) : Statement (.adcRmReg w d rm r) := withOperand _ (rm_length rm r)

theorem WellEncoded.adcRmImm (rm : Rm) (i : AluImm) : Statement (.adcRmImm rm i) := immed_length 2 rm i

theorem WellEncoded.adcAccImm (i : Imm) : Statement (.adcAccImm i) := accImm_length 0x14 i

theorem WellEncoded.incRm (w : Width) (rm : Rm) : Statement (.incRm w rm) := withOperand _ (rm_length rm 0)

theorem WellEncoded.incReg (r : Reg) : Statement (.incReg r) := known rfl

theorem WellEncoded.subRmReg (w : Width) (d : Dir) (rm : Rm) (r : Reg) : Statement (.subRmReg w d rm r) := withOperand _ (rm_length rm r)

theorem WellEncoded.subRmImm (rm : Rm) (i : AluImm) : Statement (.subRmImm rm i) := immed_length 5 rm i

theorem WellEncoded.subAccImm (i : Imm) : Statement (.subAccImm i) := accImm_length 0x2C i

theorem WellEncoded.sbbRmReg (w : Width) (d : Dir) (rm : Rm) (r : Reg) : Statement (.sbbRmReg w d rm r) := withOperand _ (rm_length rm r)

theorem WellEncoded.sbbRmImm (rm : Rm) (i : AluImm) : Statement (.sbbRmImm rm i) := immed_length 3 rm i

theorem WellEncoded.sbbAccImm (i : Imm) : Statement (.sbbAccImm i) := accImm_length 0x1C i

theorem WellEncoded.decRm (w : Width) (rm : Rm) : Statement (.decRm w rm) := withOperand _ (rm_length rm 1)

theorem WellEncoded.decReg (r : Reg) : Statement (.decReg r) := known rfl

theorem WellEncoded.cmpRmReg (w : Width) (d : Dir) (rm : Rm) (r : Reg) : Statement (.cmpRmReg w d rm r) := withOperand _ (rm_length rm r)

theorem WellEncoded.cmpRmImm (rm : Rm) (i : AluImm) : Statement (.cmpRmImm rm i) := immed_length 7 rm i

theorem WellEncoded.cmpAccImm (i : Imm) : Statement (.cmpAccImm i) := accImm_length 0x3C i

theorem WellEncoded.negRm (w : Width) (rm : Rm) : Statement (.negRm w rm) := withOperand _ (rm_length rm 3)

theorem WellEncoded.aaa : Statement .aaa := known rfl

theorem WellEncoded.daa : Statement .daa := known rfl

theorem WellEncoded.aas : Statement .aas := known rfl

theorem WellEncoded.das : Statement .das := known rfl

theorem WellEncoded.mulRm (w : Width) (rm : Rm) : Statement (.mulRm w rm) := withOperand _ (rm_length rm 4)

theorem WellEncoded.imulRm (w : Width) (rm : Rm) : Statement (.imulRm w rm) := withOperand _ (rm_length rm 5)

theorem WellEncoded.imulRegRmImm (r : Reg) (rm : Rm) (i : SxImm) : Statement (.imulRegRmImm r rm i) :=
  match i with
  | .word v => withWord _ v (rm_length rm r)
  | .sx v => withByte _ v (rm_length rm r)

theorem WellEncoded.divRm (w : Width) (rm : Rm) : Statement (.divRm w rm) := withOperand _ (rm_length rm 6)

theorem WellEncoded.idivRm (w : Width) (rm : Rm) : Statement (.idivRm w rm) := withOperand _ (rm_length rm 7)

theorem WellEncoded.aam : Statement .aam := known rfl

theorem WellEncoded.aad : Statement .aad := known rfl

theorem WellEncoded.cbw : Statement .cbw := known rfl

theorem WellEncoded.cwd : Statement .cwd := known rfl

theorem WellEncoded.andRmReg (w : Width) (d : Dir) (rm : Rm) (r : Reg) : Statement (.andRmReg w d rm r) := withOperand _ (rm_length rm r)

theorem WellEncoded.andRmImm (rm : Rm) (i : AluImm) : Statement (.andRmImm rm i) := immed_length 4 rm i

theorem WellEncoded.andAccImm (i : Imm) : Statement (.andAccImm i) := accImm_length 0x24 i

theorem WellEncoded.testRmReg (w : Width) (rm : Rm) (r : Reg) : Statement (.testRmReg w rm r) := withOperand _ (rm_length rm r)

theorem WellEncoded.testRmImm (rm : Rm) (i : Imm) : Statement (.testRmImm rm i) :=
  match i with
  | .byte v => withByte _ v (rm_length rm 0)
  | .word v => withWord _ v (rm_length rm 0)

theorem WellEncoded.testAccImm (i : Imm) : Statement (.testAccImm i) := accImm_length 0xA8 i

theorem WellEncoded.orRmReg (w : Width) (d : Dir) (rm : Rm) (r : Reg) : Statement (.orRmReg w d rm r) := withOperand _ (rm_length rm r)

theorem WellEncoded.orRmImm (rm : Rm) (i : AluImm) : Statement (.orRmImm rm i) := immed_length 1 rm i

theorem WellEncoded.orAccImm (i : Imm) : Statement (.orAccImm i) := accImm_length 0x0C i

theorem WellEncoded.xorRmReg (w : Width) (d : Dir) (rm : Rm) (r : Reg) : Statement (.xorRmReg w d rm r) := withOperand _ (rm_length rm r)

theorem WellEncoded.xorRmImm (rm : Rm) (i : AluImm) : Statement (.xorRmImm rm i) := immed_length 6 rm i

theorem WellEncoded.xorAccImm (i : Imm) : Statement (.xorAccImm i) := accImm_length 0x34 i

theorem WellEncoded.notRm (w : Width) (rm : Rm) : Statement (.notRm w rm) := withOperand _ (rm_length rm 2)

theorem WellEncoded.rolRm1 (w : Width) (rm : Rm) : Statement (.rolRm1 w rm) := withOperand _ (rm_length rm 0)

theorem WellEncoded.rolRmCl (w : Width) (rm : Rm) : Statement (.rolRmCl w rm) := withOperand _ (rm_length rm 0)

theorem WellEncoded.rolRmImm (w : Width) (rm : Rm) (count : Byte) : Statement (.rolRmImm w rm count) := withByte _ count (rm_length rm 0)

theorem WellEncoded.rorRm1 (w : Width) (rm : Rm) : Statement (.rorRm1 w rm) := withOperand _ (rm_length rm 1)

theorem WellEncoded.rorRmCl (w : Width) (rm : Rm) : Statement (.rorRmCl w rm) := withOperand _ (rm_length rm 1)

theorem WellEncoded.rorRmImm (w : Width) (rm : Rm) (count : Byte) : Statement (.rorRmImm w rm count) := withByte _ count (rm_length rm 1)

theorem WellEncoded.rclRm1 (w : Width) (rm : Rm) : Statement (.rclRm1 w rm) := withOperand _ (rm_length rm 2)

theorem WellEncoded.rclRmCl (w : Width) (rm : Rm) : Statement (.rclRmCl w rm) := withOperand _ (rm_length rm 2)

theorem WellEncoded.rclRmImm (w : Width) (rm : Rm) (count : Byte) : Statement (.rclRmImm w rm count) := withByte _ count (rm_length rm 2)

theorem WellEncoded.rcrRm1 (w : Width) (rm : Rm) : Statement (.rcrRm1 w rm) := withOperand _ (rm_length rm 3)

theorem WellEncoded.rcrRmCl (w : Width) (rm : Rm) : Statement (.rcrRmCl w rm) := withOperand _ (rm_length rm 3)

theorem WellEncoded.rcrRmImm (w : Width) (rm : Rm) (count : Byte) : Statement (.rcrRmImm w rm count) := withByte _ count (rm_length rm 3)

theorem WellEncoded.shlRm1 (w : Width) (rm : Rm) : Statement (.shlRm1 w rm) := withOperand _ (rm_length rm 4)

theorem WellEncoded.shlRmCl (w : Width) (rm : Rm) : Statement (.shlRmCl w rm) := withOperand _ (rm_length rm 4)

theorem WellEncoded.shlRmImm (w : Width) (rm : Rm) (count : Byte) : Statement (.shlRmImm w rm count) := withByte _ count (rm_length rm 4)

theorem WellEncoded.shrRm1 (w : Width) (rm : Rm) : Statement (.shrRm1 w rm) := withOperand _ (rm_length rm 5)

theorem WellEncoded.shrRmCl (w : Width) (rm : Rm) : Statement (.shrRmCl w rm) := withOperand _ (rm_length rm 5)

theorem WellEncoded.shrRmImm (w : Width) (rm : Rm) (count : Byte) : Statement (.shrRmImm w rm count) := withByte _ count (rm_length rm 5)

theorem WellEncoded.sarRm1 (w : Width) (rm : Rm) : Statement (.sarRm1 w rm) := withOperand _ (rm_length rm 7)

theorem WellEncoded.sarRmCl (w : Width) (rm : Rm) : Statement (.sarRmCl w rm) := withOperand _ (rm_length rm 7)

theorem WellEncoded.sarRmImm (w : Width) (rm : Rm) (count : Byte) : Statement (.sarRmImm w rm count) := withByte _ count (rm_length rm 7)

theorem WellEncoded.movs (w : Width) : Statement (.movs w) := known rfl

theorem WellEncoded.cmps (w : Width) : Statement (.cmps w) := known rfl

theorem WellEncoded.scas (w : Width) : Statement (.scas w) := known rfl

theorem WellEncoded.lods (w : Width) : Statement (.lods w) := known rfl

theorem WellEncoded.stos (w : Width) : Statement (.stos w) := known rfl

theorem WellEncoded.ins (w : Width) : Statement (.ins w) := known rfl

theorem WellEncoded.outs (w : Width) : Statement (.outs w) := known rfl

theorem WellEncoded.rep : Statement .rep := known rfl

theorem WellEncoded.repne : Statement .repne := known rfl

theorem WellEncoded.jmpShort (disp : Byte) : Statement (.jmpShort disp) := known rfl

theorem WellEncoded.jmpNear (disp : Word) : Statement (.jmpNear disp) := known rfl

theorem WellEncoded.jmpRm (rm : Rm) : Statement (.jmpRm rm) := withOperand _ (rm_length rm 4)

theorem WellEncoded.jmpFar (off sel : Word) : Statement (.jmpFar off sel) := known rfl

theorem WellEncoded.jmpFarMem (m : MemOp) : Statement (.jmpFarMem m) := withOperand _ (memOp_length m 5)

theorem WellEncoded.callNear (disp : Word) : Statement (.callNear disp) := known rfl

theorem WellEncoded.callRm (rm : Rm) : Statement (.callRm rm) := withOperand _ (rm_length rm 2)

theorem WellEncoded.callFar (off sel : Word) : Statement (.callFar off sel) := known rfl

theorem WellEncoded.callFarMem (m : MemOp) : Statement (.callFarMem m) := withOperand _ (memOp_length m 3)

theorem WellEncoded.jo (disp : Byte) : Statement (.jo disp) := known rfl

theorem WellEncoded.jno (disp : Byte) : Statement (.jno disp) := known rfl

theorem WellEncoded.jb (disp : Byte) : Statement (.jb disp) := known rfl

theorem WellEncoded.jnb (disp : Byte) : Statement (.jnb disp) := known rfl

theorem WellEncoded.je (disp : Byte) : Statement (.je disp) := known rfl

theorem WellEncoded.jne (disp : Byte) : Statement (.jne disp) := known rfl

theorem WellEncoded.jbe (disp : Byte) : Statement (.jbe disp) := known rfl

theorem WellEncoded.jnbe (disp : Byte) : Statement (.jnbe disp) := known rfl

theorem WellEncoded.js (disp : Byte) : Statement (.js disp) := known rfl

theorem WellEncoded.jns (disp : Byte) : Statement (.jns disp) := known rfl

theorem WellEncoded.jp (disp : Byte) : Statement (.jp disp) := known rfl

theorem WellEncoded.jnp (disp : Byte) : Statement (.jnp disp) := known rfl

theorem WellEncoded.jl (disp : Byte) : Statement (.jl disp) := known rfl

theorem WellEncoded.jnl (disp : Byte) : Statement (.jnl disp) := known rfl

theorem WellEncoded.jle (disp : Byte) : Statement (.jle disp) := known rfl

theorem WellEncoded.jnle (disp : Byte) : Statement (.jnle disp) := known rfl

theorem WellEncoded.loop (disp : Byte) : Statement (.loop disp) := known rfl

theorem WellEncoded.loopz (disp : Byte) : Statement (.loopz disp) := known rfl

theorem WellEncoded.loopnz (disp : Byte) : Statement (.loopnz disp) := known rfl

theorem WellEncoded.jcxz (disp : Byte) : Statement (.jcxz disp) := known rfl

theorem WellEncoded.retNear : Statement .retNear := known rfl

theorem WellEncoded.retNearImm (n : Word) : Statement (.retNearImm n) := known rfl

theorem WellEncoded.retFar : Statement .retFar := known rfl

theorem WellEncoded.retFarImm (n : Word) : Statement (.retFarImm n) := known rfl

theorem WellEncoded.enter (size : Word) (level : Byte) : Statement (.enter size level) := known rfl

theorem WellEncoded.leave : Statement .leave := known rfl

theorem WellEncoded.bound (r : Reg) (m : MemOp) : Statement (.bound r m) := withOperand _ (memOp_length m r)

theorem WellEncoded.intN (v : Byte) : Statement (.intN v) := known rfl

theorem WellEncoded.int3 : Statement .int3 := known rfl

theorem WellEncoded.into : Statement .into := known rfl

theorem WellEncoded.iret : Statement .iret := known rfl

theorem WellEncoded.clc : Statement .clc := known rfl

theorem WellEncoded.cmc : Statement .cmc := known rfl

theorem WellEncoded.stc : Statement .stc := known rfl

theorem WellEncoded.cld : Statement .cld := known rfl

theorem WellEncoded.std : Statement .std := known rfl

theorem WellEncoded.cli : Statement .cli := known rfl

theorem WellEncoded.sti : Statement .sti := known rfl

theorem WellEncoded.hlt : Statement .hlt := known rfl

theorem WellEncoded.lock : Statement .lock := known rfl

theorem WellEncoded.wait : Statement .wait := known rfl

theorem WellEncoded.esc (ttt lll : BitVec 3) (rm : Rm) : Statement (.esc ttt lll rm) := withOperand _ (rm_length rm lll)

theorem WellEncoded.clts : Statement .clts := known rfl

theorem WellEncoded.segOverride (sr : SReg) : Statement (.segOverride sr) := known rfl

theorem WellEncoded.lgdt (m : MemOp) : Statement (.lgdt m) := withPage _ _ (memOp_length m 2)

theorem WellEncoded.sgdt (m : MemOp) : Statement (.sgdt m) := withPage _ _ (memOp_length m 0)

theorem WellEncoded.lidt (m : MemOp) : Statement (.lidt m) := withPage _ _ (memOp_length m 3)

theorem WellEncoded.sidt (m : MemOp) : Statement (.sidt m) := withPage _ _ (memOp_length m 1)

theorem WellEncoded.lldt (rm : Rm) : Statement (.lldt rm) := withPage _ _ (rm_length rm 2)

theorem WellEncoded.sldt (rm : Rm) : Statement (.sldt rm) := withPage _ _ (rm_length rm 0)

theorem WellEncoded.ltr (rm : Rm) : Statement (.ltr rm) := withPage _ _ (rm_length rm 3)

theorem WellEncoded.str (rm : Rm) : Statement (.str rm) := withPage _ _ (rm_length rm 1)

theorem WellEncoded.lmsw (rm : Rm) : Statement (.lmsw rm) := withPage _ _ (rm_length rm 6)

theorem WellEncoded.smsw (rm : Rm) : Statement (.smsw rm) := withPage _ _ (rm_length rm 4)

theorem WellEncoded.verr (rm : Rm) : Statement (.verr rm) := withPage _ _ (rm_length rm 4)

theorem WellEncoded.verw (rm : Rm) : Statement (.verw rm) := withPage _ _ (rm_length rm 5)

theorem WellEncoded.lar (r : Reg) (rm : Rm) : Statement (.lar r rm) := withPage _ _ (rm_length rm r)

theorem WellEncoded.lsl (r : Reg) (rm : Rm) : Statement (.lsl r rm) := withPage _ _ (rm_length rm r)

theorem WellEncoded.arpl (rm : Rm) (r : Reg) : Statement (.arpl rm r) := withOperand _ (rm_length rm r)

theorem WellEncoded.undefined (u : Undefined) : Statement (.undefined u) :=
  match u with
  | .oneByte _ => known rfl
  | .page0F _ => known rfl
  | .group _ _ => known rfl
  | .group0F _ _ => known rfl

end Sys2Proof.Laws
end

