-- ==== Sys2Proof/Tests/Slice0.lean ====
section
/-! SUPPORT. The tests: ill-formed terms are refused, words of the spec's encodings decode, single steps do what
95_test_vectors.md says, and the premises of every statement can be met. -/

open Sys2Proof Sys2Proof.Machine

-- One theorem after another: their kernel evaluations run side by side otherwise, each on a stack of its own.
set_option Elab.async false

namespace Sys2Proof.Tests

/-! How the test states are built. -/

/-- Real mode with CS = 0 and IP = 0x0100. -/
def start : State := { State.reset with cs := SegReg.reset, ip := 0x0100, curIp := 0x0100 }

/-- Bytes written to memory from an address on. -/
def place (m : List Host.Cell) (a : Nat) (bytes : List Nat) : List Host.Cell :=
  match bytes with
  | [] => m
  | v :: rest => place (Memory.write m a (BitVec.ofNat 8 v)) (a + 1) rest

def withBytes (a : Nat) (bytes : List Nat) (s : State) : State := { s with mem := place s.mem a bytes }

def atIp (ip : Nat) (s : State) : State := { s with ip := BitVec.ofNat 16 ip, curIp := BitVec.ofNat 16 ip }

def withReg (r : Reg) (v : Nat) (s : State) : State := s.setReg r (BitVec.ofNat 16 v)

def withFlags (v : Nat) (s : State) : State := { s with flags := Flags.ofImage (BitVec.ofNat 16 v) }

/-- The first 18 vectors of real mode: vector `v` at 0000:8000 + v. -/
def withVectors (s : State) : State := withBytes 0 ((List.range 18).flatMap fun v => [v, 0x80, 0, 0]) s

/-- The next state, if there is one. -/
def nextOf (o : Host.Outcome State Fault Refusal) : Option State :=
  match o with
  | .next t => some t
  | .fault _ => none
  | .refused _ => none

/-- Whether one step from `start`, set up and with `code` at CS:IP, leads to a state with a property. -/
def after (code : List Nat) (setup : State → State) (ok : State → Bool) : Bool :=
  let s := setup start
  match step (withBytes (s.cs.base + zeroExtend24 s.ip).toNat code s) with
  | .next t => ok t
  | .fault _ => false
  | .refused _ => false

/-- CF, PF, AF, ZF, SF, OF. -/
def status (s : State) : List Nat :=
  [s.flags.cf, s.flags.pf, s.flags.af, s.flags.zf, s.flags.sf, s.flags.ovf].map Bool.toNat

/-- The handler of exception `v` is entered with `ip` as return address. -/
def tookException (s : State) (v : Nat) (ip : Nat) : Bool :=
  s.ip.toNat == 0x8000 + v && s.cs.sel == 0 && (s.load .ss (s.reg SP) .word).toNat == ip

/-! Ill-formed terms. -/

theorem test_refuses_base_six : (MemOp.base 6).wf = false := by decide
theorem test_refuses_memory_operand : (Rm.mem (.base 6)).wf = false := by decide
theorem test_refuses_mov_cs : (Instr.movSregRm .cs (.reg 0)).wf = false := by decide
theorem test_refuses_pop_cs : (Instr.popSreg .cs).wf = false := by decide
theorem test_refuses_xchg_ax_ax : (Instr.xchgAx 0).wf = false := by decide
theorem test_refuses_operand_inside : (Instr.lea 0 (.base 6)).wf = false := by decide
theorem test_refuses_defined_opcode : (Undefined.oneByte 0x90).wf = false := by decide
theorem test_refuses_defined_page : (Undefined.page0F 0x06).wf = false := by decide
theorem test_refuses_defined_group : (Undefined.group 0x8E 0xD8).wf = false := by decide
theorem test_refuses_defined_group0F : (Undefined.group0F 0x01 0xF0).wf = false := by decide
theorem test_refuses_undefined : (Instr.undefined (.oneByte 0x90)).wf = false := by decide

/-! Decoding: every row of spec/opcode_table.json, and the operand forms and undefined encodings of 30_encoding.md. -/

/-- The operand forms (R155 to R157) and the byte and immediate forms (R152, R162). -/
theorem test_decode_operand_forms :
    ∀ p ∈ ([
      ([0b10001010#8, 0b00101000#8], .movRegRm .byte 5 (.mem (.base 0))),
      ([0b10001010#8, 0b00101110#8, 0x34#8, 0x12#8], .movRegRm .byte 5 (.mem (.direct 0x1234))),
      ([0b10001011#8, 0b01101110#8, 0xFE#8], .movRegRm .word 5 (.mem (.base8 6 0xFE))),
      ([0b10001011#8, 0b10101111#8, 0x34#8, 0x12#8], .movRegRm .word 5 (.mem (.base16 7 0x1234))),
      ([0b00000000#8, 0b11101011#8], .addRmReg .byte .toRm (.reg 3) 5),
      ([0b00000001#8, 0b11101011#8], .addRmReg .word .toRm (.reg 3) 5),
      ([0b00000010#8, 0b11101011#8], .addRmReg .byte .toReg (.reg 3) 5),
      ([0b10000000#8, 0b11000011#8, 0x80#8], .addRmImm (.reg 3) (.byte false 0x80)),
      ([0b10000001#8, 0b11000011#8, 0x80#8, 0x12#8], .addRmImm (.reg 3) (.word 0x1280)),
      ([0b10000010#8, 0b11000011#8, 0x80#8], .addRmImm (.reg 3) (.byte true 0x80)),
      ([0b01101000#8, 0x80#8, 0x12#8], .pushImm (.word 0x1280)),
      ([0b01101001#8, 0b11101011#8, 0x80#8, 0x12#8], .imulRegRmImm 5 (.reg 3) (.word 0x1280)),
      ([0b11000110#8, 0b00000110#8, 0x00#8, 0x02#8, 0x80#8], .movRmImm (.mem (.direct 0x0200)) (.byte 0x80)),
      ([0b00000110#8], .pushSreg .es),
      ([0b00001110#8], .pushSreg .cs),
      ([0b00011111#8], .popSreg .ds)] : List (List Byte × Instr)), decode p.1 = .ok p.2 [] := by decide +kernel

/-- The undefined encodings of R167, one of each kind; XCHG AX, AX is NOP (R169). -/
theorem test_decode_undefined :
    ∀ p ∈ ([
      ([0b00001111#8, 0b00000101#8], .undefined (.page0F 0x05)),
      ([0b10001110#8, 0b11001000#8], .undefined (.group 0x8E 0xC8)),
      ([0b11000100#8, 0b11000000#8], .undefined (.group 0xC4 0xC0)),
      ([0b11010000#8, 0b11110000#8], .undefined (.group 0xD0 0xF0)),
      ([0b11111110#8, 0b11010000#8], .undefined (.group 0xFE 0xD0)),
      ([0b00001111#8, 0b00000000#8, 0b11110000#8], .undefined (.group0F 0x00 0xF0)),
      ([0b00001111#8, 0b00000001#8, 0b11010000#8], .undefined (.group0F 0x01 0xD0)),
      ([0b10010000#8], .nop)] : List (List Byte × Instr)), decode p.1 = .ok p.2 [] := by decide +kernel

/-- A second byte of AAM other than 0x0A, and an encoding that is cut short. -/
theorem test_decode_not_ok : decode [0xD4#8, 0x0B#8] = .badBase ∧ decode [0xC7#8, 0x06#8] = .needMore := by
  decide +kernel

/-- Words numbered as spec/opcode_table.json numbers them (log entry 7). -/
theorem test_decode_table_word :
    decodeTableWord 16 0xD40A = some .aam ∧ decodeTableWord 24 0x0F0110 = some (.lgdt (.base 0)) ∧
    decodeTableWord 8 0x90 = some .nop := by
  decide +kernel

/-- Encodings of 40_data_transfer.md, one a row, fields as spec/opcode_table.json places them. -/
theorem test_decode_data_transfer_1 :
    ∀ p ∈ ([
    ([0b10001001#8, 0b11101011#8], .movRmReg .word (.reg 3) 5),
    ([0b10001011#8, 0b11101011#8], .movRegRm .word 5 (.reg 3)),
    ([0b11000111#8, 0b11000011#8, 0x34#8, 0x12#8], .movRmImm (.reg 3) (.word 0x1234)),
    ([0b10111101#8, 0x34#8, 0x12#8], .movRegImm 5 (.word 0x1234)),
    ([0b10100001#8, 0x43#8, 0x21#8], .movAccMem .word 0x2143),
    ([0b10100011#8, 0x43#8, 0x21#8], .movMemAcc .word 0x2143),
    ([0b10001110#8, 0b11010011#8], .movSregRm .ss (.reg 3)),
    ([0b10001100#8, 0b11010011#8], .movRmSreg (.reg 3) .ss),
    ([0b11111111#8, 0b11110011#8], .pushRm (.reg 3)),
    ([0b01010101#8], .pushReg 5),
    ([0b00010110#8], .pushSreg .ss),
    ([0b01101010#8, 0x85#8], .pushImm (.sx 0x85)),
    ([0b01100000#8], .pusha),
    ([0b10001111#8, 0b11000011#8], .popRm (.reg 3)),
    ([0b01011101#8], .popReg 5),
    ([0b00010111#8], .popSreg .ss),
    ([0b01100001#8], .popa),
    ([0b10000111#8, 0b11101011#8], .xchgRmReg .word (.reg 3) 5),
    ([0b10010101#8], .xchgAx 5),
    ([0b10010000#8], .nop),
    ([0b11100101#8, 0x9C#8], .inPort .word 0x9C),
    ([0b11101101#8], .inDx .word),
    ([0b11100111#8, 0x9C#8], .outPort .word 0x9C),
    ([0b11101111#8], .outDx .word)] : List (List Byte × Instr)), decode p.1 = .ok p.2 [] := by decide +kernel

/-- Encodings of 40_data_transfer.md, one a row, fields as spec/opcode_table.json places them. -/
theorem test_decode_data_transfer_2 :
    ∀ p ∈ ([
    ([0b11010111#8], .xlat),
    ([0b10001101#8, 0b10101111#8, 0x01#8, 0x80#8], .lea 5 (.base16 7 0x8001)),
    ([0b11000101#8, 0b10101111#8, 0x01#8, 0x80#8], .lds 5 (.base16 7 0x8001)),
    ([0b11000100#8, 0b10101111#8, 0x01#8, 0x80#8], .les 5 (.base16 7 0x8001)),
    ([0b10011111#8], .lahf),
    ([0b10011110#8], .sahf),
    ([0b10011100#8], .pushf),
    ([0b10011101#8], .popf)] : List (List Byte × Instr)), decode p.1 = .ok p.2 [] := by decide +kernel

/-- Encodings of 41_arithmetic.md, one a row, fields as spec/opcode_table.json places them. -/
theorem test_decode_arithmetic_1 :
    ∀ p ∈ ([
    ([0b00000011#8, 0b11101011#8], .addRmReg .word .toReg (.reg 3) 5),
    ([0b10000011#8, 0b11000011#8, 0xFE#8], .addRmImm (.reg 3) (.sx 0xFE)),
    ([0b00000101#8, 0x34#8, 0x12#8], .addAccImm (.word 0x1234)),
    ([0b00010011#8, 0b11101011#8], .adcRmReg .word .toReg (.reg 3) 5),
    ([0b10000011#8, 0b11010011#8, 0xFE#8], .adcRmImm (.reg 3) (.sx 0xFE)),
    ([0b00010101#8, 0x34#8, 0x12#8], .adcAccImm (.word 0x1234)),
    ([0b11111111#8, 0b11000011#8], .incRm .word (.reg 3)),
    ([0b01000101#8], .incReg 5),
    ([0b00101011#8, 0b11101011#8], .subRmReg .word .toReg (.reg 3) 5),
    ([0b10000011#8, 0b11101011#8, 0xFE#8], .subRmImm (.reg 3) (.sx 0xFE)),
    ([0b00101101#8, 0x34#8, 0x12#8], .subAccImm (.word 0x1234)),
    ([0b00011011#8, 0b11101011#8], .sbbRmReg .word .toReg (.reg 3) 5),
    ([0b10000011#8, 0b11011011#8, 0xFE#8], .sbbRmImm (.reg 3) (.sx 0xFE)),
    ([0b00011101#8, 0x34#8, 0x12#8], .sbbAccImm (.word 0x1234)),
    ([0b11111111#8, 0b11001011#8], .decRm .word (.reg 3)),
    ([0b01001101#8], .decReg 5),
    ([0b00111011#8, 0b11101011#8], .cmpRmReg .word .toReg (.reg 3) 5),
    ([0b10000011#8, 0b11111011#8, 0xFE#8], .cmpRmImm (.reg 3) (.sx 0xFE)),
    ([0b00111101#8, 0x34#8, 0x12#8], .cmpAccImm (.word 0x1234)),
    ([0b11110111#8, 0b11011011#8], .negRm .word (.reg 3)),
    ([0b00110111#8], .aaa),
    ([0b00100111#8], .daa),
    ([0b00111111#8], .aas),
    ([0b00101111#8], .das)] : List (List Byte × Instr)), decode p.1 = .ok p.2 [] := by decide +kernel

/-- Encodings of 41_arithmetic.md, one a row, fields as spec/opcode_table.json places them. -/
theorem test_decode_arithmetic_2 :
    ∀ p ∈ ([
    ([0b11110111#8, 0b11100011#8], .mulRm .word (.reg 3)),
    ([0b11110111#8, 0b11101011#8], .imulRm .word (.reg 3)),
    ([0b01101011#8, 0b11101011#8, 0x85#8], .imulRegRmImm 5 (.reg 3) (.sx 0x85)),
    ([0b11110111#8, 0b11110011#8], .divRm .word (.reg 3)),
    ([0b11110111#8, 0b11111011#8], .idivRm .word (.reg 3)),
    ([0b11010100#8, 0b00001010#8], .aam),
    ([0b11010101#8, 0b00001010#8], .aad),
    ([0b10011000#8], .cbw),
    ([0b10011001#8], .cwd)] : List (List Byte × Instr)), decode p.1 = .ok p.2 [] := by decide +kernel

/-- Encodings of 42_logic.md, one a row, fields as spec/opcode_table.json places them. -/
theorem test_decode_logic_1 :
    ∀ p ∈ ([
    ([0b00100011#8, 0b11101011#8], .andRmReg .word .toReg (.reg 3) 5),
    ([0b10000011#8, 0b11100011#8, 0xFE#8], .andRmImm (.reg 3) (.sx 0xFE)),
    ([0b00100101#8, 0x34#8, 0x12#8], .andAccImm (.word 0x1234)),
    ([0b10000101#8, 0b11101011#8], .testRmReg .word (.reg 3) 5),
    ([0b11110111#8, 0b11000011#8, 0x34#8, 0x12#8], .testRmImm (.reg 3) (.word 0x1234)),
    ([0b10101001#8, 0x34#8, 0x12#8], .testAccImm (.word 0x1234)),
    ([0b00001011#8, 0b11101011#8], .orRmReg .word .toReg (.reg 3) 5),
    ([0b10000011#8, 0b11001011#8, 0xFE#8], .orRmImm (.reg 3) (.sx 0xFE)),
    ([0b00001101#8, 0x34#8, 0x12#8], .orAccImm (.word 0x1234)),
    ([0b00110011#8, 0b11101011#8], .xorRmReg .word .toReg (.reg 3) 5),
    ([0b10000011#8, 0b11110011#8, 0xFE#8], .xorRmImm (.reg 3) (.sx 0xFE)),
    ([0b00110101#8, 0x34#8, 0x12#8], .xorAccImm (.word 0x1234)),
    ([0b11110111#8, 0b11010011#8], .notRm .word (.reg 3)),
    ([0b11010001#8, 0b11000011#8], .rolRm1 .word (.reg 3)),
    ([0b11010011#8, 0b11000011#8], .rolRmCl .word (.reg 3)),
    ([0b11000001#8, 0b11000011#8, 0x9C#8], .rolRmImm .word (.reg 3) 0x9C),
    ([0b11010001#8, 0b11001011#8], .rorRm1 .word (.reg 3)),
    ([0b11010011#8, 0b11001011#8], .rorRmCl .word (.reg 3)),
    ([0b11000001#8, 0b11001011#8, 0x9C#8], .rorRmImm .word (.reg 3) 0x9C),
    ([0b11010001#8, 0b11010011#8], .rclRm1 .word (.reg 3)),
    ([0b11010011#8, 0b11010011#8], .rclRmCl .word (.reg 3)),
    ([0b11000001#8, 0b11010011#8, 0x9C#8], .rclRmImm .word (.reg 3) 0x9C),
    ([0b11010001#8, 0b11011011#8], .rcrRm1 .word (.reg 3)),
    ([0b11010011#8, 0b11011011#8], .rcrRmCl .word (.reg 3))] : List (List Byte × Instr)), decode p.1 = .ok p.2 [] := by decide +kernel

/-- Encodings of 42_logic.md, one a row, fields as spec/opcode_table.json places them. -/
theorem test_decode_logic_2 :
    ∀ p ∈ ([
    ([0b11000001#8, 0b11011011#8, 0x9C#8], .rcrRmImm .word (.reg 3) 0x9C),
    ([0b11010001#8, 0b11100011#8], .shlRm1 .word (.reg 3)),
    ([0b11010011#8, 0b11100011#8], .shlRmCl .word (.reg 3)),
    ([0b11000001#8, 0b11100011#8, 0x9C#8], .shlRmImm .word (.reg 3) 0x9C),
    ([0b11010001#8, 0b11101011#8], .shrRm1 .word (.reg 3)),
    ([0b11010011#8, 0b11101011#8], .shrRmCl .word (.reg 3)),
    ([0b11000001#8, 0b11101011#8, 0x9C#8], .shrRmImm .word (.reg 3) 0x9C),
    ([0b11010001#8, 0b11111011#8], .sarRm1 .word (.reg 3)),
    ([0b11010011#8, 0b11111011#8], .sarRmCl .word (.reg 3)),
    ([0b11000001#8, 0b11111011#8, 0x9C#8], .sarRmImm .word (.reg 3) 0x9C)] : List (List Byte × Instr)), decode p.1 = .ok p.2 [] := by decide +kernel

/-- Encodings of 43_string.md, one a row, fields as spec/opcode_table.json places them. -/
theorem test_decode_string :
    ∀ p ∈ ([
    ([0b10100101#8], .movs .word),
    ([0b10100111#8], .cmps .word),
    ([0b10101111#8], .scas .word),
    ([0b10101101#8], .lods .word),
    ([0b10101011#8], .stos .word),
    ([0b01101101#8], .ins .word),
    ([0b01101111#8], .outs .word),
    ([0b11110011#8], .rep),
    ([0b11110010#8], .repne)] : List (List Byte × Instr)), decode p.1 = .ok p.2 [] := by decide +kernel

/-- Encodings of 44_control_transfer.md, one a row, fields as spec/opcode_table.json places them. -/
theorem test_decode_control_transfer_1 :
    ∀ p ∈ ([
    ([0b11101011#8, 0x9C#8], .jmpShort 0x9C),
    ([0b11101001#8, 0x43#8, 0x21#8], .jmpNear 0x2143),
    ([0b11111111#8, 0b11100011#8], .jmpRm (.reg 3)),
    ([0b11101010#8, 0x43#8, 0x21#8, 0x54#8, 0x32#8], .jmpFar 0x2143 0x3254),
    ([0b11111111#8, 0b10101111#8, 0x01#8, 0x80#8], .jmpFarMem (.base16 7 0x8001)),
    ([0b11101000#8, 0x43#8, 0x21#8], .callNear 0x2143),
    ([0b11111111#8, 0b11010011#8], .callRm (.reg 3)),
    ([0b10011010#8, 0x43#8, 0x21#8, 0x54#8, 0x32#8], .callFar 0x2143 0x3254),
    ([0b11111111#8, 0b10011111#8, 0x01#8, 0x80#8], .callFarMem (.base16 7 0x8001)),
    ([0b01110000#8, 0x9C#8], .jo 0x9C),
    ([0b01110001#8, 0x9C#8], .jno 0x9C),
    ([0b01110010#8, 0x9C#8], .jb 0x9C),
    ([0b01110011#8, 0x9C#8], .jnb 0x9C),
    ([0b01110100#8, 0x9C#8], .je 0x9C),
    ([0b01110101#8, 0x9C#8], .jne 0x9C),
    ([0b01110110#8, 0x9C#8], .jbe 0x9C),
    ([0b01110111#8, 0x9C#8], .jnbe 0x9C),
    ([0b01111000#8, 0x9C#8], .js 0x9C),
    ([0b01111001#8, 0x9C#8], .jns 0x9C),
    ([0b01111010#8, 0x9C#8], .jp 0x9C),
    ([0b01111011#8, 0x9C#8], .jnp 0x9C),
    ([0b01111100#8, 0x9C#8], .jl 0x9C),
    ([0b01111101#8, 0x9C#8], .jnl 0x9C),
    ([0b01111110#8, 0x9C#8], .jle 0x9C)] : List (List Byte × Instr)), decode p.1 = .ok p.2 [] := by decide +kernel

/-- Encodings of 44_control_transfer.md, one a row, fields as spec/opcode_table.json places them. -/
theorem test_decode_control_transfer_2 :
    ∀ p ∈ ([
    ([0b01111111#8, 0x9C#8], .jnle 0x9C),
    ([0b11100010#8, 0x9C#8], .loop 0x9C),
    ([0b11100001#8, 0x9C#8], .loopz 0x9C),
    ([0b11100000#8, 0x9C#8], .loopnz 0x9C),
    ([0b11100011#8, 0x9C#8], .jcxz 0x9C),
    ([0b11000011#8], .retNear),
    ([0b11000010#8, 0x43#8, 0x21#8], .retNearImm 0x2143),
    ([0b11001011#8], .retFar),
    ([0b11001010#8, 0x43#8, 0x21#8], .retFarImm 0x2143),
    ([0b11001000#8, 0x43#8, 0x21#8, 0x9C#8], .enter 0x2143 0x9C),
    ([0b11001001#8], .leave),
    ([0b01100010#8, 0b10101111#8, 0x01#8, 0x80#8], .bound 5 (.base16 7 0x8001)),
    ([0b11001101#8, 0x9C#8], .intN 0x9C),
    ([0b11001100#8], .int3),
    ([0b11001110#8], .into),
    ([0b11001111#8], .iret)] : List (List Byte × Instr)), decode p.1 = .ok p.2 [] := by decide +kernel

/-- Encodings of 46_processor_control.md, one a row, fields as spec/opcode_table.json places them. -/
theorem test_decode_processor_control :
    ∀ p ∈ ([
    ([0b11111000#8], .clc),
    ([0b11110101#8], .cmc),
    ([0b11111001#8], .stc),
    ([0b11111100#8], .cld),
    ([0b11111101#8], .std),
    ([0b11111010#8], .cli),
    ([0b11111011#8], .sti),
    ([0b11110100#8], .hlt),
    ([0b11110000#8], .lock),
    ([0b10011011#8], .wait),
    ([0b11011110#8, 0b11001011#8], .esc 6 1 (.reg 3)),
    ([0b00001111#8, 0b00000110#8], .clts),
    ([0b00110110#8], .segOverride .ss)] : List (List Byte × Instr)), decode p.1 = .ok p.2 [] := by decide +kernel

/-- Encodings of 47_protection_control.md, one a row, fields as spec/opcode_table.json places them. -/
theorem test_decode_protection_control :
    ∀ p ∈ ([
    ([0b00001111#8, 0b00000001#8, 0b10010111#8, 0x01#8, 0x80#8], .lgdt (.base16 7 0x8001)),
    ([0b00001111#8, 0b00000001#8, 0b10000111#8, 0x01#8, 0x80#8], .sgdt (.base16 7 0x8001)),
    ([0b00001111#8, 0b00000001#8, 0b10011111#8, 0x01#8, 0x80#8], .lidt (.base16 7 0x8001)),
    ([0b00001111#8, 0b00000001#8, 0b10001111#8, 0x01#8, 0x80#8], .sidt (.base16 7 0x8001)),
    ([0b00001111#8, 0b00000000#8, 0b11010011#8], .lldt (.reg 3)),
    ([0b00001111#8, 0b00000000#8, 0b11000011#8], .sldt (.reg 3)),
    ([0b00001111#8, 0b00000000#8, 0b11011011#8], .ltr (.reg 3)),
    ([0b00001111#8, 0b00000000#8, 0b11001011#8], .str (.reg 3)),
    ([0b00001111#8, 0b00000001#8, 0b11110011#8], .lmsw (.reg 3)),
    ([0b00001111#8, 0b00000001#8, 0b11100011#8], .smsw (.reg 3)),
    ([0b00001111#8, 0b00000000#8, 0b11100011#8], .verr (.reg 3)),
    ([0b00001111#8, 0b00000000#8, 0b11101011#8], .verw (.reg 3)),
    ([0b00001111#8, 0b00000010#8, 0b11101011#8], .lar 5 (.reg 3)),
    ([0b00001111#8, 0b00000011#8, 0b11101011#8], .lsl 5 (.reg 3)),
    ([0b01100011#8, 0b11101011#8], .arpl (.reg 3) 5)] : List (List Byte × Instr)), decode p.1 = .ok p.2 [] := by decide +kernel

/-- Encodings of 30_encoding.md, one a row, fields as spec/opcode_table.json places them. -/
theorem test_decode_encoding :
    ∀ p ∈ ([
    ([0b01100100#8], .undefined (.oneByte 0x64)),
    ([0b01100101#8], .undefined (.oneByte 0x65)),
    ([0b01100110#8], .undefined (.oneByte 0x66)),
    ([0b01100111#8], .undefined (.oneByte 0x67)),
    ([0b11010110#8], .undefined (.oneByte 0xD6)),
    ([0b11110001#8], .undefined (.oneByte 0xF1))] : List (List Byte × Instr)), decode p.1 = .ok p.2 [] := by decide +kernel

/-! Single steps, from 95_test_vectors.md. -/

theorem test_mov_base_displacement :
    after [0x8B, 0x46, 0xFE] (withReg BP 0x100 ∘ withBytes 0xFE [0xEF,0xBE] ∘ atIp 0x400) (fun s => s.reg AX == 0xBEEF && s.ip == 0x403) = true := by
  decide +kernel

theorem test_mov_address_wraps :
    after [0x8B, 0] (withReg BX 0xFFFF ∘ withReg SI 3 ∘ withBytes 2 [0x55,0x55]) (fun s => s.reg AX == 0x5555) = true := by
  decide +kernel

theorem test_mov_direct_immediate :
    after [0xC7, 6, 0, 2, 0x34, 0x12] (id) (fun s => s.readWord 0x200 == 0x1234 && s.ip == 0x106) = true := by
  decide +kernel

theorem test_add_sign_extended :
    after [0x83, 0xC3, 0xFF] (withReg BX 1) (fun s => s.reg BX == 0 && status s == [1,1,1,1,0,0]) = true := by
  decide +kernel

theorem test_undefined_page :
    after [0x0F, 5] (withVectors ∘ withReg SP 0x200) (fun s => tookException s 6 0x100) = true := by
  decide +kernel

theorem test_lldt_real :
    after [0x0F, 0, 0xD0] (withVectors ∘ withReg SP 0x200) (fun s => tookException s 6 0x100) = true := by
  decide +kernel

theorem test_undefined_group :
    after [0xD0, 0xF0] (withVectors ∘ withReg SP 0x200) (fun s => tookException s 6 0x100) = true := by
  decide +kernel

theorem test_mov_byte_register :
    after [0x88, 0xC3] (withReg AX 0x5A ∘ withReg BX 0x1234) (fun s => s.reg BX == 0x125A) = true := by
  decide +kernel

theorem test_mov_high_byte :
    after [0xB4, 0x7F] (id) (fun s => s.reg AX == 0x7F00) = true := by
  decide +kernel

theorem test_mov_word_at_end :
    after [0xA1, 0xFF, 0xFF] (withVectors ∘ withReg SP 0x200) (fun s => tookException s 13 0x100) = true := by
  decide +kernel

theorem test_mov_byte_at_end :
    after [0xA0, 0xFF, 0xFF] (withBytes 0xFFFF [0x99]) (fun s => s.reg AX == 0x99) = true := by
  decide +kernel

theorem test_mov_from_ds :
    after [0x8C, 0xD8] ((fun s => {s with ds := realSegReg 0x1234})) (fun s => s.reg AX == 0x1234) = true := by
  decide +kernel

theorem test_mov_to_ds :
    after [0x8E, 0xD8] (withReg AX 0x2000) (fun s => s.ds == realSegReg 0x2000 && s.ds.base == 0x20000) = true := by
  decide +kernel

theorem test_push_register :
    after [0x50] (withReg AX 0xCAFE ∘ withReg SP 0x100 ∘ atIp 0x200) (fun s => s.readWord 0xFE == 0xCAFE && s.reg SP == 0xFE) = true := by
  decide +kernel

theorem test_push_sp :
    after [0x54] (withReg SP 0x100 ∘ atIp 0x200) (fun s => s.readWord 0xFE == 0x100 && s.reg SP == 0xFE) = true := by
  decide +kernel

theorem test_push_wraps_to_top :
    after [0x50] (withReg SP 0) (fun s => s.reg SP == 0xFFFE) = true := by
  decide +kernel

theorem test_push_at_one_shuts_down :
    after [0x50] (withReg SP 1) (fun s => s.shutdown) = true := by
  decide +kernel

theorem test_push_sign_extended :
    after [0x6A, 0xFF] (withReg SP 0x100 ∘ atIp 0x200) (fun s => s.readWord 0xFE == 0xFFFF) = true := by
  decide +kernel

theorem test_pop_sp :
    after [0x5C] (withReg SP 0xFE ∘ withBytes 0xFE [0,4] ∘ atIp 0x200) (fun s => s.reg SP == 0x400) = true := by
  decide +kernel

theorem test_pop_memory :
    after [0x8F, 6, 0, 3] (withReg SP 0xFE ∘ withBytes 0xFE [0xCD,0xAB] ∘ atIp 0x200) (fun s => s.readWord 0x300 == 0xABCD && s.reg SP == 0x100) = true := by
  decide +kernel

theorem test_pusha :
    after [0x60] (atIp 0x200 ∘ withReg AX 1 ∘ withReg CX 2 ∘ withReg DX 3 ∘ withReg BX 4 ∘ withReg SP 0x100 ∘ withReg BP 6 ∘ withReg SI 7 ∘ withReg DI 8) (fun s => ([0xFE,0xFC,0xFA,0xF8,0xF6,0xF4,0xF2,0xF0] : List Addr).map s.readWord == [1,2,3,4,0x100,6,7,8] && s.reg SP == 0xF0) = true := by
  decide +kernel

theorem test_xchg :
    after [0x87, 0xD9] (withReg BX 0x1111 ∘ withReg CX 0x2222) (fun s => s.reg BX == 0x2222 && s.reg CX == 0x1111) = true := by
  decide +kernel

theorem test_xchg_halves :
    after [0x86, 0xC4] (withReg AX 0x1122) (fun s => s.reg AX == 0x2211) = true ∧
    after [0x86, 0xC3] (withReg AX 0x1122 ∘ withReg BX 0x3344) (fun s => s.reg AX == 0x1144 && s.reg BX == 0x3322) =
      true := by
  decide +kernel

theorem test_xchg_ax :
    after [0x91] (withReg AX 0xAA ∘ withReg CX 0xBB) (fun s => s.reg AX == 0xBB && s.reg CX == 0xAA) = true := by
  decide +kernel

theorem test_xlat :
    after [0xD7] (withReg BX 0x300 ∘ withReg AX 5 ∘ withBytes 0x305 [0x41]) (fun s => s.reg AX == 0x41) = true := by
  decide +kernel

theorem test_out_dx :
    after [0xEF] (withReg DX 0x300 ∘ withReg AX 0xA55A) (fun s => s.bus == [.ioWrite 0x300 .word 0xA55A]) = true := by
  decide +kernel

/-- 20_memory.md R72, R76: the low byte goes to the odd port first, the high byte then to the next one; newest first. -/
theorem test_out_odd_port :
    after [0xEF] (withReg DX 0x301 ∘ withReg AX 0xA55A)
      (fun s => s.bus == [.ioWrite 0x302 .byte 0xA5, .ioWrite 0x301 .byte 0x5A]) = true := by
  decide +kernel

/-- 20_memory.md R76: AX becomes the byte at port + 1 above the byte at port, each of them read once. -/
theorem test_in_odd_port :
    after [0xED] (withReg DX 0x301) (fun s =>
      s.bus.map (fun e => match e with
        | .ioRead p w _ => some (p, w)
        | _ => none) == [some (0x302, .byte), some (0x301, .byte)]) = true ∧
    portValue 0x301 .word 5 = concatBytes (Config.freeByte 6) (Config.freeByte 5) := by
  exact ⟨by decide +kernel, rfl⟩

theorem test_lea :
    after [0x8D, 0x40, 5] (withReg BX 0x1000 ∘ withReg SI 0x234) (fun s => s.reg AX == 0x1239) = true := by
  decide +kernel

theorem test_lds :
    after [0xC5, 0x1E, 0, 3] (withBytes 0x300 [0x78,0x56,0x34,0x12]) (fun s => s.reg BX == 0x5678 && s.ds == realSegReg 0x1234) = true := by
  decide +kernel

theorem test_lahf :
    after [0x9F] (withFlags 0x97) (fun s => s.reg AX == 0x9700) = true := by
  decide +kernel

theorem test_sahf :
    after [0x9E] (withReg AX 0xFF00) (fun s => s.flags.image == 0xD7) = true := by
  decide +kernel

theorem test_pushf :
    after [0x9C] (withFlags 0x246 ∘ withReg SP 0x100 ∘ atIp 0x200) (fun s => s.readWord 0xFE == 0x246) = true := by
  decide +kernel

/-- 20_memory.md R86: at SP = 1 in real mode PUSHF is shutdown at the instruction, with CS and the flags kept. -/
theorem test_pushf_wraps :
    after [0x9C] (withReg SP 1 ∘ withFlags 0x246) (fun s => s.shutdown && s.ip == 0x100 && s.flags.image == 0x246) =
      true := by
  decide +kernel

theorem test_popf :
    after [0x9D] (withReg SP 0x300 ∘ withBytes 0x300 [0xFF,0xFF]) (fun s => s.flags.image == 0xFD7) = true := by
  decide +kernel

theorem test_add_overflow :
    after [4, 1] (withReg AX 0x7F) (fun s => s.reg AX == 0x80 && status s == [0,0,1,0,1,1]) = true := by
  decide +kernel

theorem test_add_carry :
    after [4, 1] (withReg AX 0xFF) (fun s => s.reg AX == 0 && status s == [1,1,1,1,0,0]) = true := by
  decide +kernel

theorem test_add_word :
    after [5, 0, 0x80] (withReg AX 0x8000) (fun s => s.reg AX == 0 && status s == [1,1,0,1,0,1]) = true := by
  decide +kernel

theorem test_adc :
    after [0x14, 0] (withReg AX 0xFF ∘ withFlags 3) (fun s => s.reg AX == 0 && status s == [1,1,1,1,0,0]) = true := by
  decide +kernel

theorem test_inc_keeps_carry :
    after [0x40] (withReg AX 0x7FFF ∘ withFlags 3) (fun s => s.reg AX == 0x8000 && status s == [1,1,1,0,1,1]) = true := by
  decide +kernel

theorem test_sub_borrow :
    after [0x2C, 1] (withReg AX 0) (fun s => s.reg AX == 0xFF && status s == [1,1,1,0,1,0]) = true := by
  decide +kernel

theorem test_sub_overflow :
    after [0x2C, 1] (withReg AX 0x80) (fun s => s.reg AX == 0x7F && status s == [0,0,1,0,0,1]) = true := by
  decide +kernel

theorem test_sbb :
    after [0x1C, 0xFF] (withFlags 3) (fun s => s.reg AX == 0 && status s == [1,1,1,1,0,0]) = true := by
  decide +kernel

theorem test_dec :
    after [0x48] (id) (fun s => s.reg AX == 0xFFFF && status s == [0,1,1,0,1,0]) = true := by
  decide +kernel

theorem test_cmp :
    after [0x3D, 0xFB, 0xFF] (withReg AX 5) (fun s => s.reg AX == 5 && status s == [1,1,1,0,0,0]) = true := by
  decide +kernel

theorem test_neg_minimum :
    after [0xF6, 0xD8] (withReg AX 0x80) (fun s => s.reg AX == 0x80 && status s == [1,0,0,0,1,1]) = true := by
  decide +kernel

theorem test_aaa :
    after [0x37] (withReg AX 0xC) (fun s => s.reg AX == 0x102 && s.flags.af && s.flags.cf) = true := by
  decide +kernel

theorem test_daa :
    after [0x27] (withReg AX 0x7D) (fun s => s.reg AX == 0x83 && (status s).take 5 == [0,0,1,0,1]) = true := by
  decide +kernel

theorem test_aas :
    after [0x3F] (withReg AX 0x1FE ∘ withFlags 0x12) (fun s => s.reg AX == 8 && s.flags.af && s.flags.cf) = true := by
  decide +kernel

theorem test_das :
    after [0x2F] (withReg AX 0x2D ∘ withFlags 0x12) (fun s => s.reg AX == 0x27 && (status s).take 3 == [0,1,1]) = true := by
  decide +kernel

theorem test_mul_byte :
    after [0xF6, 0xE3] (withReg AX 0x10 ∘ withReg BX 0x10) (fun s => s.reg AX == 0x100 && s.flags.cf && s.flags.ovf) = true := by
  decide +kernel

theorem test_mul_word :
    after [0xF7, 0xE3] (withReg AX 0xFFFF ∘ withReg BX 0xFFFF) (fun s => s.reg AX == 1 && s.reg DX == 0xFFFE && s.flags.cf && s.flags.ovf) = true := by
  decide +kernel

theorem test_imul_word :
    after [0xF7, 0xEB] (withReg AX 0x8000 ∘ withReg BX 0xFFFF) (fun s => s.reg AX == 0x8000 && s.reg DX == 0 && s.flags.cf && s.flags.ovf) = true := by
  decide +kernel

theorem test_imul_immediate :
    after [0x69, 0xC3, 0x2C, 1] (withReg BX 300) (fun s => s.reg AX == 0x5F90 && s.flags.cf && s.flags.ovf) = true := by
  decide +kernel

theorem test_div :
    after [0xF6, 0xF3] (withReg AX 0x64 ∘ withReg BX 7) (fun s => s.reg AX == 0x20E) = true := by
  decide +kernel

theorem test_div_overflow :
    after [0xF6, 0xF3] (withVectors ∘ withReg SP 0x200 ∘ withReg AX 0x100 ∘ withReg BX 1) (fun s => tookException s 0 0x100 && s.reg AX == 0x100) = true := by
  decide +kernel

theorem test_idiv :
    after [0xF7, 0xFB] (withReg DX 0xFFFF ∘ withReg AX 0xFF9C ∘ withReg BX 7) (fun s => s.reg AX == 0xFFF2 && s.reg DX == 0xFFFE) = true := by
  decide +kernel

theorem test_aam :
    after [0xD4, 0x0A] (withReg AX 0x3F) (fun s => s.reg AX == 0x603 && !s.flags.zf && !s.flags.sf && s.flags.pf) = true := by
  decide +kernel

theorem test_aad :
    after [0xD5, 0x0A] (withReg AX 0x603) (fun s => s.reg AX == 0x3F) = true := by
  decide +kernel

theorem test_cbw :
    after [0x98] (withReg AX 0x80) (fun s => s.reg AX == 0xFF80) = true := by
  decide +kernel

theorem test_cwd :
    after [0x99] (withReg AX 0x8000) (fun s => s.reg DX == 0xFFFF) = true := by
  decide +kernel

theorem test_and :
    after [0x21, 0xD8] (withReg AX 0xF0F0 ∘ withReg BX 0x0FF0) (fun s => s.reg AX == 0xF0 && !s.flags.cf && !s.flags.zf && s.flags.pf) = true := by
  decide +kernel

theorem test_or :
    after [0x0C, 0x80] (withReg AX 1) (fun s => s.reg AX == 0x81 && s.flags.sf && s.flags.pf) = true := by
  decide +kernel

theorem test_xor :
    after [0x31, 0xC0] (withReg AX 77) (fun s => s.reg AX == 0 && s.flags.zf && s.flags.pf) = true := by
  decide +kernel

theorem test_test :
    after [0xA8, 1] (withReg AX 0xFE) (fun s => s.reg AX == 0xFE && s.flags.zf && s.flags.pf && !s.flags.sf) = true := by
  decide +kernel

theorem test_not :
    after [0xF7, 0xD0] (withReg AX 0xFF) (fun s => s.reg AX == 0xFF00 && s.flags.image == 2) = true := by
  decide +kernel

theorem test_rol :
    after [0xD0, 0xC0] (withReg AX 0x81) (fun s => s.reg AX == 3 && status s == [1,0,0,0,0,1]) = true := by
  decide +kernel

theorem test_ror :
    after [0xC0, 0xC8, 3] (withReg AX 0x96) (fun s => s.reg AX == 0xD2 && s.flags.cf) = true := by
  decide +kernel

theorem test_rcl_nine :
    after [0xD2, 0xD0] (withReg AX 0x55 ∘ withFlags 3 ∘ withReg CX 9) (fun s => s.reg AX == 0x55 && s.flags.cf) = true := by
  decide +kernel

theorem test_rcr :
    after [0xD1, 0xD8] (withReg AX 1) (fun s => s.reg AX == 0 && s.flags.cf && !s.flags.ovf) = true := by
  decide +kernel

theorem test_shl_eight :
    after [0xC0, 0xE0, 8] (withReg AX 1) (fun s => s.reg AX == 0 && s.flags.cf && s.flags.zf) = true := by
  decide +kernel

theorem test_shr_count_33 :
    after [0xD3, 0xE8] (withReg AX 0x8001 ∘ withReg CX 0x21) (fun s => s.reg AX == 0x4000 && s.flags.cf && s.flags.ovf) = true := by
  decide +kernel

theorem test_shr_count_32 :
    after [0xD3, 0xE8] (withReg AX 0x1234 ∘ withReg CX 0x20 ∘ withFlags 0x883) (fun s => s.reg AX == 0x1234 && s.flags.image == 0x883) = true := by
  decide +kernel

theorem test_sar :
    after [0xC0, 0xF8, 0x1F] (withReg AX 0x80) (fun s => s.reg AX == 0xFF && s.flags.cf) = true := by
  decide +kernel

theorem test_movs :
    after [0xA4] (atIp 0x700 ∘ withReg SI 0x100 ∘ withReg DI 0x200 ∘ withBytes 0x100 [0x7E]) (fun s => s.readByte 0x200 == 0x7E && s.reg SI == 0x101 && s.reg DI == 0x201) = true := by
  decide +kernel

theorem test_movs_down :
    after [0xA5] (withFlags 0x402 ∘ atIp 0x700 ∘ withReg SI 0x100 ∘ withReg DI 0x200 ∘ withBytes 0x100 [0x7E,9]) (fun s => s.readWord 0x200 == 0x97E && s.reg SI == 0xFE && s.reg DI == 0x1FE) = true := by
  decide +kernel

theorem test_cmps :
    after [0xA6] (atIp 0x700 ∘ withReg SI 0x100 ∘ withReg DI 0x200 ∘ withBytes 0x100 [1] ∘ withBytes 0x200 [2]) (fun s => status s == [1,1,1,0,1,0]) = true := by
  decide +kernel

theorem test_scas :
    after [0xAE] (atIp 0x700 ∘ withReg AX 0x43 ∘ withReg DI 0x200 ∘ withBytes 0x200 [0x43]) (fun s => s.flags.zf && !s.flags.cf && s.reg DI == 0x201) = true := by
  decide +kernel

theorem test_lods :
    after [0xAD] (atIp 0x700 ∘ withReg SI 0x200 ∘ withBytes 0x200 [0xEF,0xBE]) (fun s => s.reg AX == 0xBEEF && s.reg SI == 0x202) = true := by
  decide +kernel

theorem test_stos_at_end :
    after [0xAB] (atIp 0x700 ∘ withReg DI 0xFFFE ∘ withReg AX 0x1234) (fun s => s.readWord 0xFFFE == 0x1234 && s.reg DI == 0) = true := by
  decide +kernel

theorem test_outs :
    after [0x6E] (withReg DX 0x300 ∘ withReg SI 0x400 ∘ withBytes 0x400 [0x55]) (fun s => s.bus == [.ioWrite 0x300 .byte 0x55] && s.reg SI == 0x401) = true := by
  decide +kernel

theorem test_jmp_short :
    after [0xEB, 0xFE] (id) (fun s => s.ip == 0x100) = true := by
  decide +kernel

theorem test_jmp_near_wraps :
    after [0xE9, 0xFD, 0x7F] (atIp 0x8000) (fun s => s.ip == 0) = true := by
  decide +kernel

theorem test_jmp_register :
    after [0xFF, 0xE3] (withReg BX 0x1234) (fun s => s.ip == 0x1234) = true := by
  decide +kernel

theorem test_jmp_far :
    after [0xEA, 0, 1, 0, 0x20] (id) (fun s => s.ip == 0x100 && s.cs == realSegReg 0x2000) = true := by
  decide +kernel

theorem test_call_near :
    after [0xE8, 0xFD, 0xFF] (withReg SP 0x200) (fun s => s.ip == 0x100 && s.readWord 0x1FE == 0x103 && s.reg SP == 0x1FE) = true := by
  decide +kernel

theorem test_call_far :
    after [0x9A, 0, 0, 0, 0x10] (withReg SP 0x200) (fun s => s.ip == 0 && s.readWord 0x1FE == 0 && s.readWord 0x1FC == 0x105 && s.reg SP == 0x1FC && s.cs == realSegReg 0x1000) = true := by
  decide +kernel

theorem test_ret :
    after [0xC3] (withReg SP 0x1FE ∘ withBytes 0x1FE [3,1]) (fun s => s.ip == 0x103 && s.reg SP == 0x200) = true := by
  decide +kernel

theorem test_ret_immediate :
    after [0xC2, 4, 0] (withReg SP 0x1FE ∘ withBytes 0x1FE [3,1]) (fun s => s.ip == 0x103 && s.reg SP == 0x204) = true := by
  decide +kernel

theorem test_ret_far :
    after [0xCB] (withReg SP 0x1FC ∘ withBytes 0x1FC [5,1,0,0]) (fun s => s.ip == 0x105 && s.reg SP == 0x200) = true := by
  decide +kernel

theorem test_je_taken :
    after [0x74, 2] (withFlags 0x42 ∘ atIp 0x10) (fun s => s.ip == 0x14) = true := by
  decide +kernel

theorem test_je_not_taken :
    after [0x74, 2] (atIp 0x10) (fun s => s.ip == 0x12) = true := by
  decide +kernel

theorem test_jl :
    after [0x7C, 0x10] (withFlags 0x82 ∘ atIp 0x20) (fun s => s.ip == 0x32) = true := by
  decide +kernel

theorem test_jle :
    after [0x7E, 0x10] (withFlags 0x882 ∘ atIp 0x20) (fun s => s.ip == 0x22) = true := by
  decide +kernel

theorem test_loop :
    after [0xE2, 0xFC] (withReg CX 5 ∘ atIp 8) (fun s => s.ip == 6 && s.reg CX == 4) = true := by
  decide +kernel

theorem test_loop_zero :
    after [0xE2, 0xFC] (withReg CX 0 ∘ atIp 8) (fun s => s.ip == 6 && s.reg CX == 0xFFFF) = true := by
  decide +kernel

theorem test_loopz :
    after [0xE1, 0xF0] (withReg CX 2) (fun s => s.ip == 0x102 && s.reg CX == 1) = true := by
  decide +kernel

theorem test_jcxz :
    after [0xE3, 0x10] (withReg CX 0 ∘ atIp 0x20) (fun s => s.ip == 0x32 && s.reg CX == 0) = true := by
  decide +kernel

theorem test_enter_level_two :
    after [0xC8, 4, 0, 2] (withBytes 0x1FE [0,3] ∘ atIp 0x700 ∘ withReg SP 0x100 ∘ withReg BP 0x200) (fun s => s.readWord 0xFE == 0x200 && s.readWord 0xFC == 0x300 && s.readWord 0xFA == 0xFE && s.reg BP == 0xFE && s.reg SP == 0xF6) = true := by
  decide +kernel

theorem test_leave :
    after [0xC9] (withBytes 0xFE [0,2] ∘ atIp 0x700 ∘ withReg BP 0xFE) (fun s => s.reg BP == 0x200 && s.reg SP == 0x100) = true := by
  decide +kernel

theorem test_bound_inside :
    after [0x62, 6, 0, 2] (withBytes 0x200 [0,0,9,0] ∘ withReg AX 5) (fun s => s.ip == 0x104) = true := by
  decide +kernel

theorem test_bound_above :
    after [0x62, 6, 0, 2] (withVectors ∘ withReg SP 0x700 ∘ withBytes 0x200 [0,0,9,0] ∘ withReg AX 10) (fun s => tookException s 5 0x100) = true := by
  decide +kernel

theorem test_int :
    after [0xCD, 0x21] (withBytes 0x84 [0,3,0,0] ∘ withReg SP 0x200 ∘ withFlags 0x202 ∘ atIp 0x104) (fun s => ([0x1FE,0x1FC,0x1FA] : List Addr).map s.readWord == [0x202,0,0x106] && s.reg SP == 0x1FA && s.flags.image == 2 && s.ip == 0x300) = true := by
  decide +kernel

theorem test_int3 :
    after [0xCC] (withVectors ∘ withReg SP 0x200) (fun s => tookException s 3 0x101) = true := by
  decide +kernel

theorem test_into :
    after [0xCE] (withVectors ∘ withReg SP 0x200 ∘ withFlags 0x802) (fun s => tookException s 4 0x101) = true := by
  decide +kernel

theorem test_iret :
    after [0xCF] (atIp 0x700 ∘ withReg SP 0x1FA ∘ withBytes 0x1FA [5,1,0,0,2,2]) (fun s => s.ip == 0x105 && s.flags.image == 0x202 && s.reg SP == 0x200) = true := by
  decide +kernel

theorem test_wait_ts_mp :
    after [0x9B] (withVectors ∘ withReg SP 0x200 ∘ (fun s => { s with msw := {s.msw with ts := true, mp := true}})) (fun s => tookException s 7 0x100) = true := by
  decide +kernel

theorem test_wait :
    after [0x9B] (id) (fun s => s.ip == 0x101) = true := by
  decide +kernel

theorem test_esc_em :
    after [0xD9, 6, 0, 2] (withVectors ∘ withReg SP 0x200 ∘ (fun s => { s with msw := {s.msw with em := true}})) (fun s => tookException s 7 0x100) = true := by
  decide +kernel

theorem test_lgdt :
    after [0x0F, 1, 0x16, 0, 7] (withBytes 0x700 [0x17,0,0,8,0,0]) (fun s => s.gdtr == ⟨0x800,0x17⟩) = true := by
  decide +kernel

theorem test_smsw :
    after [0x0F, 1, 0xE0] (id) (fun s => s.reg AX == 0xFFF0) = true := by
  decide +kernel

theorem test_lmsw :
    after [0x0F, 1, 0xF0] (withReg AX 1) (fun s => s.msw.pe) = true := by
  decide +kernel

theorem test_intr :
    after [0x90] ((fun s => {s with pins := {s.pins with intr := some 0x40}}) ∘ withBytes 0x100 [0x10,0,0,0x20] ∘ withFlags 0x202 ∘ atIp 0x150 ∘ withReg SP 0x200) (fun s => ([0x1FE,0x1FC,0x1FA] : List Addr).map s.readWord == [0x202,0,0x150] && s.ip == 0x10 && s.cs == realSegReg 0x2000 && s.flags.image == 2) = true := by
  decide +kernel

theorem test_intr_masked :
    after [0x90] ((fun s => {s with pins := {s.pins with intr := some 0x40}}) ∘ withBytes 0x100 [0x10,0,0,0x20] ∘ withFlags 0x2 ∘ atIp 0x150 ∘ withReg SP 0x200) (fun s => s.ip == 0x151 && s.pins.intr == some 0x40) = true := by
  decide +kernel

theorem test_nmi :
    after [0x90] (withVectors ∘ (fun s => { s with nmiPending := true}) ∘ withFlags 0x2 ∘ atIp 0x150 ∘ withReg SP 0x200) (fun s => tookException s 2 0x150 && s.nmiInService) = true := by
  decide +kernel

theorem test_int_beyond_table :
    after [0xCD, 4] (withVectors ∘ (fun s => { s with idtr := ⟨0,0xF⟩}) ∘ withReg SP 0x200) (fun s => s.shutdown) = true := by
  decide +kernel

/-! ## The premises of the statements can be met -/

/-- Real mode with values in the general registers. -/
def real : State := { start with regs := #v[0x1234, 2, 0x0003, 0x0100, 0x0800, 0x0900, 0x0A00, 0x0B00] }

/-- The eight bytes of a descriptor. -/
def descriptor (limit base ar : Nat) : List Nat :=
  [limit % 256, limit / 256, base % 256, base / 256 % 256, base / 65536, ar, 0, 0]

/-- A GDT at 0x1000: code and data of level 0, code and data of level 3, an LDT, an available and a busy TSS, data that is
not present, execute-only code, a call gate of level 3 with two parameters to the code of level 0. -/
def gdtBytes : List Nat :=
  descriptor 0xFFFF 0x10000 0x9A ++ descriptor 0xFFFF 0x20000 0x92 ++ descriptor 0xFFFF 0x30000 0xFA ++
  descriptor 0xFFFF 0x40000 0xF2 ++ descriptor 0x000F 0x5000 0x82 ++ descriptor 0x002B 0x6000 0x81 ++
  descriptor 0x002B 0x7000 0x83 ++ descriptor 0xFFFF 0x20000 0x12 ++ descriptor 0xFFFF 0x10000 0x98 ++
  descriptor 0x0200 0x20008 0xE4

/-- Protected mode at CPL 0: the GDT above; in an IDT at 0x2000 interrupt gates of level 0 for vectors 8, 13 and 0x20, a
trap gate of level 3 that is not present for 0x21 and one that is present for 0x22; a TSS at 0x6000 for the code and stack
of level 0, and one at 0x7000 with the stack of level 0. -/
def prot : State :=
  let gate (v ar : Nat) := withBytes (0x2000 + 8 * v) (descriptor 0x0300 0x00008 ar)
  let m := (withBytes 0x1008 gdtBytes ∘ gate 8 0x86 ∘ gate 13 0x86 ∘ gate 0x20 0x86 ∘ gate 0x21 0x67 ∘ gate 0x22 0xE7 ∘
    withBytes 0x600E [0x00, 0x01, 0x02, 0x00] ∘ withBytes 0x601A [0x00, 0x05] ∘
    withBytes 0x6024 [0x08, 0x00, 0x10, 0x00] ∘ withBytes 0x7002 [0x00, 0x08, 0x10, 0x00]) real
  { m with
    msw := { pe := true, mp := false, em := false, ts := false }
    gdtr := { base := 0x1000, limit := 0x0057 }
    idtr := { base := 0x2000, limit := 0x0117 }
    tr := { sel := 0x38, base := 0x7000, limit := 0x002B }
    cs := { sel := 0x08, base := 0x10000, limit := 0xFFFF, rights := .descr 0x9B }
    ss := { sel := 0x10, base := 0x20000, limit := 0xFFFF, rights := .descr 0x93 }
    ds := { sel := 0x10, base := 0x20000, limit := 0x0FFF, rights := .descr 0x93 }
    es := { sel := 0x10, base := 0x20000, limit := 0xFFFF, rights := .descr 0x93 } }

/-- Protected mode at CPL 3. -/
def prot3 : State :=
  { prot with
    cs := { sel := 0x1B, base := 0x30000, limit := 0xFFFF, rights := .descr 0xFB }
    ss := { sel := 0x23, base := 0x40000, limit := 0xFFFF, rights := .descr 0xF3 } }

/-- The exception an effect ends in. -/
def excOf (r : EStateM.Result Stop State Unit) : Option (Byte × Option Word) :=
  match r with
  | .ok _ _ => none
  | .error (.exc v e) _ => some (v, e)
  | .error _ _ => none

theorem excOf_some {r : EStateM.Result Stop State Unit} {v : Byte} {e : Option Word} (h : excOf r = some (v, e)) :
    ∃ t, r = .error (.exc v e) t := by
  unfold excOf at h
  split at h
  · cases h
  · cases h
    exact ⟨_, rfl⟩
  · cases h

/-- The state an effect completes in. -/
def okOf (r : EStateM.Result Stop State Unit) : Option State :=
  match r with
  | .ok _ t => some t
  | .error _ _ => none

theorem okOf_some {r : EStateM.Result Stop State Unit} (h : (okOf r).isSome = true) : ∃ t, r = .ok () t := by
  cases r with
  | ok a t => exact ⟨t, rfl⟩
  | error e t => exact absurd h (by simp [okOf])

theorem nextOf_some {o : Host.Outcome State Fault Refusal} (h : (nextOf o).isSome = true) : ∃ t, o = .next t := by
  cases o with
  | next t => exact ⟨t, rfl⟩
  | fault f => exact absurd h (by simp [nextOf])
  | refused r => exact absurd h (by simp [nextOf])

theorem real_ready : real.Ready := ⟨rfl, rfl⟩
theorem prot_ready : prot.ReadyProtected := ⟨⟨rfl, ⟨rfl, rfl⟩⟩, rfl⟩
theorem prot3_ready : prot3.ReadyProtected := ⟨⟨rfl, ⟨rfl, rfl⟩⟩, rfl⟩

theorem names {s : State} {sel : Word} {a : Addr}
    (h : sel &&& 0xFFFC ≠ 0 ∧ s.descriptorAddr sel = some a ∧ s.crossesTop a 4 = false) : s.Names sel a := h

/-- A word at the last even offset of a real-mode segment. -/
abbrev lastWord : Rm := .mem (.direct 0xFFFE)

theorem witness_ResetByPin : ({ prot with pins := { prot.pins with reset := true } } : State).pins.reset = true := rfl

theorem witness_EncodeDecode : (Instr.movRegRm .byte 5 (.mem (.base8 6 0xFE))).wf = true := by decide

theorem witness_DecodeEncode : decode [0x90, 0x01] = .ok .nop [0x01] := by decide +kernel

/-- NOP at CS:IP. -/
def nopState (s : State) : State := s.withFetchWord 8 0x90

/-- The second iteration of REP MOVSW at 0x0100. -/
def repeated : State :=
  { real with
    repeating := some { instr := .movs .word, pfx := { noPrefixes with rep := some true, len := 1 }, ip := 0x0102, ipWrap := false } }

/-- MOV AL, imm at offset 0xFFFF, its immediate beyond the segment. -/
def pastEnd : State := withBytes 0xFFFF [0xB0] (atIp 0xFFFF real)

theorem witness_StepRunsDecoded :
    ((nopState real).Fetches ∧ ∃ rest, decode (nopState real).window = .ok .nop rest) ∧
    (pastEnd.Fetches ∧ decode pastEnd.window = .needMore ∧ pastEnd.window.length < Config.maxInsnLen - pastEnd.pfx.len) ∧
    repeated.GoesOn ∧ repeated.pfx.len = 0 ∧ ∃ r, repeated.repeating = some r :=
  ⟨⟨by unfold State.Fetches State.GoesOn; decide +kernel, List.replicate 9 0, by decide +kernel⟩,
    ⟨by unfold State.Fetches State.GoesOn; decide +kernel, by decide +kernel, by decide +kernel⟩,
    by unfold State.GoesOn; decide +kernel, rfl, _, rfl⟩

theorem witness_StepKeepsInvariant : (nopState real).Inv ∧ ∃ t, step (nopState real) = .next t :=
  ⟨by unfold State.Inv State.RealModeForm SegReg.isReal; decide +kernel, nextOf_some (by decide +kernel)⟩

theorem witness_ProtectedModeStays :
    (nopState prot).msw.pe = true ∧ (nopState prot).pins.reset = false ∧ ∃ t, step (nopState prot) = .next t :=
  ⟨rfl, rfl, nextOf_some (by decide +kernel)⟩

theorem witness_TablesStayBelowLevelZero :
    (nopState prot3).cpl ≠ 0 ∧ (nopState prot3).pins.reset = false ∧ ∃ t, step (nopState prot3) = .next t :=
  ⟨by decide +kernel, rfl, nextOf_some (by decide +kernel)⟩

/-- Two canonical memories; an operand in RAM and one in ROM; the words of a frame. -/
theorem witness_StoreThenLoad :
    let rom : State := { prot with board := { prot.board with memMap := [{ first := 0, last := 0xFFFFFF, kind := .rom }] } }
    Memory.wf [(5, 7), (6, 8)] = true ∧ Memory.wf prot.mem = true ∧
    (∀ a ∈ prot.cells prot.ss 0xFFFE .word, prot.isRam a = true) ∧ Memory.wf rom.mem = true ∧
    (∀ a ∈ rom.cells rom.ss 0xFFFE .word, rom.isRam a = false) ∧ [1, 2, 3].length ≤ 2 ^ 15 ∧
    (∀ a ∈ prot.frameCells prot.ss 4 3, prot.isRam a = true) := by
  decide +kernel

theorem witness_RegisterHalves : (2 : Reg) ≠ 5 &&& 3 := by decide

/-- `prot` with DS as given. -/
def withDs (limit : Word) (r : Rights) : State := { prot with ds := { prot.ds with limit := limit, rights := r } }

/-- Real mode: the word at offset 0xFFFF. Protected mode: no segment; the rights of real mode; execute-only and readable
code; read-only data; the last offset of an expand-up segment and the first beyond it; the first offset of an
expand-down segment and the last below it. An empty DS and a limited SS stop the operand of an instruction. -/
theorem witness_OperandAddressing :
    real.msw.pe = false ∧ real.board.a20A23Ignored = true ∧
    ({ real with board := { real.board with a20A23Ignored := false } } : State).msw.pe = false ∧
    real.rmStop (.mem (.direct 0xFFFF)) .word true = some (.exc 13 none) ∧ prot.msw.pe = true ∧
    (withDs 0xFFFF .null).accessStop .ds 0 .byte false = some (.exc 13 (some 0)) ∧
    ({ prot with ss := { prot.ss with rights := .null } } : State).accessStop .ss 0 .byte true = some (.exc 12 (some 0)) ∧
    ((withDs 0x0FFF .real).accessStop .ds 0x0FFE .word true = none ∧
      (withDs 0x0FFF .real).accessStop .ds 0x0FFF .word true = some (.exc 13 (some 0))) ∧
    ((withDs 0x0FFF (.descr 0x99)).accessStop .ds 0 .byte false = some (.exc 13 (some 0)) ∧
      (withDs 0x0FFF (.descr 0x9B)).accessStop .ds 0x0FFF .byte false = none ∧
      (withDs 0x0FFF (.descr 0x9B)).accessStop .ds 0 .byte true = some (.exc 13 (some 0))) ∧
    ((withDs 0x0FFF (.descr 0x91)).accessStop .ds 0 .byte false = none ∧
      (withDs 0x0FFF (.descr 0x91)).accessStop .ds 0 .byte true = some (.exc 13 (some 0))) ∧
    (prot.accessStop .ds 0x0FFE .word true = none ∧ prot.accessStop .ds 0x0FFF .word true = some (.exc 13 (some 0)) ∧
      prot.accessStop .ds 0x1000 .byte false = some (.exc 13 (some 0)) ∧
      prot.accessStop .ss 0xFFFF .word true = some (.exc 12 (some 0))) ∧
    ((withDs 0x0FFF (.descr 0x97)).accessStop .ds 0x1000 .word true = none ∧
      (withDs 0x0FFF (.descr 0x97)).accessStop .ds 0xFFFF .byte true = none ∧
      (withDs 0x0FFF (.descr 0x97)).accessStop .ds 0x0FFF .byte true = some (.exc 13 (some 0)) ∧
      (withDs 0x0FFF (.descr 0x97)).accessStop .ds 0xFFFF .word true = some (.exc 13 (some 0))) ∧
    ((withDs 0 .null).rmStop lastWord .word false = some (.exc 13 (some 0)) ∧
      (withDs 0 .null).rmStop lastWord .byte true = some (.exc 13 (some 0)) ∧
      (withDs 0 .null).wordsStop (.direct 0) 2 false = some (.exc 13 (some 0)) ∧
      (withDs 0 .null).accessStop ((withDs 0 .null).overrideOr .ds) 0 .byte true = some (.exc 13 (some 0)) ∧
      (prot.setReg SP 1).pushStop 0xFFFF = some (.exc 12 (some 0)) ∧
      (prot.setReg SP 0xFFFF).accessStop .ss 0xFFFF .word false = some (.exc 12 (some 0))) := by
  decide +kernel

theorem witness_OperandAddressing_ready : (withDs 0 .null).Ready ∧ (prot.setReg SP 1).Ready ∧ real.Ready :=
  ⟨⟨rfl, rfl⟩, ⟨rfl, rfl⟩, real_ready⟩

theorem witness_MovToRm : real.Ready ∧ real.rmStop lastWord .word true = none ∧
    real.rmStop (.mem (.direct 0xFFFF)) .byte true = none ∧ real.rmStop (.reg 7) .word true = none :=
  ⟨real_ready, by decide +kernel⟩

/-- XLAT wraps from 0xFFFF to 0. -/
theorem witness_LoadRegister : real.Ready ∧ real.rmStop lastWord .word false = none ∧
    (let s := (real.setReg BX 0xFFFF).setReg AX 1
     s.accessStop (s.overrideOr .ds) (s.reg BX + zeroExtend16 (s.reg8 AL)) .byte false = none) :=
  ⟨real_ready, by decide +kernel⟩

/-- The last word; AH is none of AL and BL, CX none of the registers they lie in. -/
theorem witness_Exchange : real.Ready ∧ real.rmStop lastWord .word true = none ∧ AH ≠ AL ∧ AH ≠ (3 : Reg) ∧
    CX ∉ rmRegs (.reg AL) .byte ++ rmRegs (.reg 3) .byte := ⟨real_ready, by decide +kernel⟩

/-- SP = 0 wraps to 0xFFFE; SP = 0xFFFE pops the last word; SP = 1 shuts down. -/
theorem witness_PushPopWord : (real.setReg SP 0).Ready ∧ (real.setReg SP 0).pushStop 0xFFFE = none ∧
    (real.setReg SP 0xFFFE).accessStop .ss 0xFFFE .word false = none ∧ real.rmStop lastWord .word true = none ∧
    (real.setReg SP 1).Ready ∧ (real.setReg SP 1).msw.pe = false ∧ (real.setReg SP 1).reg SP = 1 ∧
    (real.setReg SP 1).rmStop lastWord .word false = none :=
  ⟨⟨rfl, rfl⟩, by decide +kernel, by decide +kernel, by decide +kernel, ⟨rfl, rfl⟩, by decide +kernel⟩

theorem witness_PushPopAll : (real.setReg SP 17).Ready ∧ 16 ≤ ((real.setReg SP 17).reg SP).toNat ∧
    ((real.setReg SP 0xFFEF).reg SP).toNat < 0xFFF1 ∧ (prot.setReg SP 16).msw.pe = true ∧
    frameStop (prot.setReg SP 16) prot.ss 16 8 = none ∧ (prot.setReg SP 0xFFF0).popFrameStop 0xFFF0 8 = none ∧
    ((prot.setReg SP 0xFFF0).reg SP).toNat < 0xFFF1 :=
  ⟨⟨rfl, rfl⟩, by decide +kernel⟩

/-- The stack at 0x40800 holds a frame for IRET to 001B:0000 with IF and IOPL set. -/
def iretState : State := withBytes 0x40800 [0x00, 0x00, 0x1B, 0x00, 0x02, 0x32] prot3

theorem witness_FlagsBelowPrivilege : iretState.InProtected ∧
    iretState.accessStop .ss (iretState.reg SP) .word false = none ∧ iretState.flags.nt = false ∧
    iretState.flags.iopl.toNat < iretState.cpl ∧ ∃ u, returnProtected iretState = .ok () u :=
  ⟨⟨rfl, ⟨rfl, rfl⟩⟩, by decide +kernel, rfl, by decide +kernel, okOf_some (by decide +kernel)⟩

/-- Protected mode at CPL 3 with IOPL = 3. -/
def iopl3 : State := { prot3 with flags := { prot3.flags with iopl := 3 } }

/-- Even and odd ports, the last ones among them. -/
theorem witness_PortTransfer : real.Ready ∧ real.mayDoIo = true ∧ iopl3.Ready ∧ iopl3.mayDoIo = true ∧
    (0xFFFE#16).toNat % 2 = 0 ∧ (0xFFFF#16).toNat % 2 = 1 ∧ (real.reg DX).toNat % 2 = 1 :=
  ⟨real_ready, rfl, ⟨rfl, rfl⟩, by decide +kernel, rfl, rfl, by decide +kernel⟩

/-- Words at 0xFFFC and 0xFFFE are the last far pointer of a segment; SP = 0xFFFE pops the last word. -/
theorem witness_RealSegmentLoad : real.Ready ∧ real.msw.pe = false ∧ SReg.ss ≠ .cs ∧
    real.rmStop lastWord .word false = none ∧ (real.setReg SP 0xFFFE).reg SP ≠ 0xFFFF ∧
    real.wordsStop (.direct 0xFFFC) 2 false = none :=
  ⟨real_ready, by decide +kernel⟩

/-- Selectors 3 (null), 0x58 (beyond the GDT), 0x48 (execute-only), 0x40 (not present), 0x10 (loaded); at CPL 3 selector 0x10
fails the level test. A pointer at DS:0x0200. -/
theorem witness_ProtectedSegmentLoad :
    let p := withBytes 0x20200 [0x34, 0x12, 0x10, 0x00] prot
    prot.InProtected ∧ prot3.InProtected ∧ SReg.ss ≠ .cs ∧ prot.rmStop (.reg 3) .word false = none ∧
    prot.accessStop .ss (prot.reg SP) .word false = none ∧ p.Points (.direct 0x0200) 0x1234 0x10 ∧
    (3#16 &&& 0xFFFC = 0) ∧ (0x58#16 &&& 0xFFFC ≠ 0 ∧ prot.descriptorAddr 0x58 = none) ∧
    (prot.Names 0x48 0x1048 ∧ (prot.descriptorAt 0x1048).isReadable = false) ∧
    (prot.Names 0x40 0x1040 ∧ (prot.descriptorAt 0x1040).isReadable = true ∧
      (prot.descriptorAt 0x1040).isWritableData = true ∧ selectorRpl 0x40 = prot.cpl ∧
      (prot.descriptorAt 0x1040).dpl = prot.cpl ∧ (prot.descriptorAt 0x1040).present = false) ∧
    (prot.Names 0x10 0x1010 ∧ selectorRpl 0x10 = prot.cpl ∧ (prot.descriptorAt 0x1010).isWritableData = true ∧
      (prot.descriptorAt 0x1010).isReadable = true ∧ (prot.descriptorAt 0x1010).dpl = prot.cpl ∧
      (prot.descriptorAt 0x1010).present = true) ∧
    ¬max prot3.cpl (selectorRpl 0x10) ≤ (prot3.descriptorAt 0x1010).dpl :=
  ⟨prot_ready.1, prot3_ready.1, by decide, rfl, by decide +kernel, by unfold State.Points; decide +kernel, by decide,
    by decide +kernel, ⟨names (by decide +kernel), by decide +kernel⟩, ⟨names (by decide +kernel), by decide +kernel⟩,
    ⟨names (by decide +kernel), by decide +kernel⟩, by decide +kernel⟩

theorem witness_AluToRm : real.Ready ∧ real.rmStop lastWord .word true = none ∧
    real.rmStop lastWord (aluWidth (.sx 0x80)) true = none := ⟨real_ready, by decide +kernel⟩

theorem witness_AluToReg : real.Ready ∧ real.rmStop lastWord .word false = none := ⟨real_ready, by decide +kernel⟩

/-- An execute-only segment would not do, a read-only one does: the operand need not be writable. -/
theorem witness_CompareAndTest :
    let s : State := { prot with ds := { prot.ds with rights := .descr 0x91 } }
    s.Ready ∧ s.rmStop (.mem (.direct 0x0FFE)) .word false = none ∧ s.rmStop (.mem (.direct 0x0FFF)) .byte false = none ∧
    s.rmStop (.mem (.direct 0x0FFE)) .word true ≠ none :=
  ⟨⟨rfl, rfl⟩, by decide +kernel⟩

theorem witness_OneOperand : real.Ready ∧ real.rmStop lastWord .word true = none := ⟨real_ready, by decide +kernel⟩

/-- AL = 0xF9 is the last defined input of AAA, AL = 6 the first of AAS and DAS with AF set, AL = 0xF9 the last of DAA. -/
theorem witness_DecimalAdjust : real.Ready ∧ ((real.setReg AX 0x00F9).reg8 AL).toNat ≤ 0xF9 ∧
    6 ≤ ((real.setReg AX 0x0006).reg8 AL).toNat ∧ (real.reg8 AL).toNat % 16 ≤ 9 ∧ real.flags.af = false :=
  ⟨real_ready, by decide +kernel⟩

theorem witness_Multiply : real.Ready ∧ real.rmStop lastWord .word false = none ∧
    real.rmStop lastWord .byte false = none := ⟨real_ready, by decide +kernel⟩

/-- Quotients 0xFF and 0xFFFF fit, 0x100 does not; -127, -128 and -129 are the corners of IDIV by 1. -/
theorem witness_Divide : real.Ready ∧ real.rmStop (.reg 3) .byte false = none ∧
    (1 ≠ 0 ∧ 0x00FF / 1 ≤ 0xFF ∧ 0xFF < 0x0100 / 1 ∧ (2 ^ 16 * 0 + 0xFFFF) / 1 ≤ 0xFFFF) ∧
    ((0xFF81#16).toInt.tdiv 1 = -127 ∧ (0xFF80#16).toInt.tdiv 1 = -128 ∧ (0xFF7F#16).toInt.tdiv 1 < -128 ∧
      127 < (0x0080#16).toInt.tdiv 1) :=
  ⟨real_ready, by decide +kernel⟩

theorem witness_ShiftForms : real.Ready ∧ real.rmStop lastWord .word true = none ∧ (0x20#8).toNat % 32 = 0 ∧
    (0x1F#8).toNat % 32 ≠ 0 := ⟨real_ready, by decide +kernel⟩

/-- A count that is 1 and one that is not. -/
theorem witness_ShiftResults : (0x21#8).toNat % 32 ≠ 0 ∧ (0x21#8).toNat % 32 = 1 ∧ (0x1F#8).toNat % 32 ≠ 0 ∧
    (0x1F#8).toNat % 32 ≠ 1 := by decide

theorem witness_StringOnce :
    let s := (real.setReg SI 0xFFFE).setReg DI 0xFFFE
    s.Ready ∧ s.accessStop (s.overrideOr .ds) (s.reg SI) .word false = none ∧
    s.accessStop .es (s.reg DI) .word true = none ∧ s.accessStop .es (s.reg DI) .word false = none ∧ s.mayDoIo = true ∧
    (let t := (real.setReg SI 0xFFFF).setReg DI 0xFFFF
     t.Ready ∧ t.accessStop (t.overrideOr .ds) (t.reg SI) .word false = some (.exc 13 none) ∧
     t.accessStop .es (t.reg DI) .word false = some (.exc 13 none) ∧
     t.accessStop .es (t.reg DI) .word true = some (.exc 13 none)) :=
  ⟨⟨rfl, rfl⟩, by decide +kernel, by decide +kernel, by decide +kernel, rfl, ⟨rfl, rfl⟩, by decide +kernel⟩

/-- CX = 0 does nothing, CX = 1 is the last step, CX = 2 is not; a word at 0xFFFF is exception 13. -/
theorem witness_RepeatStep :
    let s : State := { real with pfx := { noPrefixes with rep := some true, len := 1 } }
    s.pfx.rep = some true ∧ s.lockAllowed = true ∧ (s.setReg CX 0).reg CX = 0 ∧ (s.setReg CX 1).reg CX ≠ 0 ∧
    s.reg CX = 2 ∧ (∃ u, movsOnce .word s = .ok () u) ∧
    ∃ u, movsOnce .word (s.setReg SI 0xFFFF) = .error (.exc 13 none) u :=
  ⟨rfl, rfl, by decide +kernel, by decide +kernel, by decide +kernel, okOf_some (by decide +kernel),
    excOf_some (by decide +kernel)⟩

/-- Protected mode with a code segment of limit 0x01FF: target 0x01FF is within it, 0x0200 is not. -/
theorem witness_NearTransfer :
    let s : State := { prot with cs := { prot.cs with limit := 0x01FF } }
    s.Ready ∧ s.msw.pe = true ∧ 0x01FF#16 ≤ s.cs.limit ∧ s.cs.limit < 0x0200#16 ∧ real.Ready ∧ real.msw.pe = false ∧
    real.rmStop lastWord .word false = none ∧ s.pushStop (s.reg SP - 2) = none ∧
    s.accessStop .ss (s.reg SP) .word false = none ∧ (s.load .ss (s.reg SP) .word : Word) ≤ s.cs.limit ∧
    s.cs.limit < ((withBytes 0x20800 [0x00, 0x02] s).load .ss (s.reg SP) .word : Word) ∧ s.cs.limit < s.ip + 0x0100 :=
  ⟨⟨rfl, rfl⟩, rfl, by decide +kernel, by decide +kernel, real_ready, by decide +kernel⟩

theorem witness_ConditionalJumps :
    let s : State := { prot with cs := { prot.cs with limit := 0x01FF }, ip := 0x0190 }
    s.Ready ∧ s.msw.pe = true ∧ s.ip + signExtend16 0x6F ≤ s.cs.limit ∧ s.cs.limit < s.ip + signExtend16 0x70 ∧
    s.reg CX ≠ 1 ∧ (s.setReg CX 1).reg CX = 1 :=
  ⟨⟨rfl, rfl⟩, by decide +kernel⟩

/-- SP = 2 and SP = 0 push without a wrap, SP = 0xFFFC holds the last frame of a far return. -/
theorem witness_FarTransferReal : real.Ready ∧ real.msw.pe = false ∧ real.wordsStop (.direct 0xFFFC) 2 false = none ∧
    ((real.setReg SP 2).reg SP ≠ 1 ∧ (real.setReg SP 2).reg SP ≠ 3) ∧
    ((real.setReg SP 0xFFFC).reg SP ≠ 0xFFFF ∧ (real.setReg SP 0xFFFC).reg SP ≠ 0xFFFD) :=
  ⟨real_ready, by decide +kernel⟩

/-- The selectors 3 (null), 0x58 (beyond the GDT), 0x10 (data); at CPL 3 the code of level 0; code that is not present; an
offset above the limit; a stack without room. -/
theorem witness_FarTransferProtected_fails :
    let absent := withBytes 0x100D [0x1A] prot
    let short := withBytes 0x1008 [0xFF, 0x01] prot
    let full : State := { prot with ss := { prot.ss with limit := 0x07FC, rights := .descr 0x97 } }
    IsFarJump (.jmpFar 0 3) prot 0 3 ∧ (3#16 &&& 0xFFFC = 0) ∧ (0x58#16 &&& 0xFFFC ≠ 0) ∧ prot.descriptorAddr 0x58 = none ∧
    (prot.Names 0x10 0x1010 ∧ (prot.descriptorAt 0x1010).isCode = false ∧ (prot.descriptorAt 0x1010).systemType = none) ∧
    (prot3.InProtected ∧ prot3.Names 0x08 0x1008 ∧ (prot3.descriptorAt 0x1008).isCode = true ∧
      (prot3.descriptorAt 0x1008).isConforming = false ∧ (prot3.descriptorAt 0x1008).dpl ≠ prot3.cpl) ∧
    (absent.Names 0x08 0x1008 ∧ (absent.descriptorAt 0x1008).isCode = true ∧
      (absent.descriptorAt 0x1008).dpl = absent.cpl ∧ (absent.descriptorAt 0x1008).present = false) ∧
    (short.NamesCode 0x08 0x1008 ∧ (short.descriptorAt 0x1008).limit < 0x0200#16) ∧
    frameStop full full.ss (full.reg SP) 2 = some (.exc 12 (some 0)) :=
  ⟨.inl rfl, by decide, by decide, by decide +kernel, ⟨names (by decide +kernel), by decide +kernel⟩,
    ⟨prot3_ready.1, names (by decide +kernel), by decide +kernel⟩, ⟨names (by decide +kernel), by decide +kernel⟩,
    ⟨⟨names (by decide +kernel), by decide +kernel⟩, by decide +kernel⟩, by decide +kernel⟩

/-- At the limit of the segment; the pointer to it lies at DS:0x0200. -/
theorem witness_FarTransferProtected :
    let p := withBytes 0x20200 [0xFF, 0xFF, 0x08, 0x00] prot
    p.InProtected ∧ p.NamesCode 0x08 0x1008 ∧ 0xFFFF#16 ≤ (p.descriptorAt 0x1008).limit ∧
    (p.descriptorAt 0x1008).isConforming = false ∧ (p.descriptorAt 0x1008).dpl = p.cpl ∧ selectorRpl 0x08 ≤ p.cpl ∧
    IsFarJump (.jmpFarMem (.direct 0x0200)) p 0xFFFF 0x08 ∧ IsFarCall (.callFar 0xFFFF 0x08) p 0xFFFF 0x08 ∧
    frameStop p p.ss (p.reg SP) 2 = none :=
  ⟨⟨rfl, ⟨rfl, rfl⟩⟩, ⟨names (by decide +kernel), by decide +kernel⟩, by decide +kernel, by decide +kernel,
    by decide +kernel, by decide +kernel, .inr ⟨_, rfl, by unfold State.Points; decide +kernel⟩, .inl rfl,
    by decide +kernel⟩

/-- The gate of selector 0x50 at CPL 0, where it leads to the same level; at CPL 3 with RPL 3, where its target is of an
inner level; below it a gate of level 0 and one that is not present. -/
theorem witness_CallGateSameLevel :
    let p := withBytes 0x1055 [0x84] prot3
    let q := withBytes 0x1055 [0x64] prot3
    prot.InProtected ∧ prot.Names 0x50 0x1050 ∧ (prot.descriptorAt 0x1050).systemType = some 4 ∧
    ((p.descriptorAt 0x1050).systemType = some 4 ∧ (p.descriptorAt 0x1050).dpl < max p.cpl (selectorRpl 0x50)) ∧
    (max q.cpl (selectorRpl 0x50) ≤ (q.descriptorAt 0x1050).dpl ∧ (q.descriptorAt 0x1050).present = false) ∧
    (max prot.cpl (selectorRpl 0x50) ≤ (prot.descriptorAt 0x1050).dpl ∧ (prot.descriptorAt 0x1050).present = true ∧
      prot.NamesCode (prot.descriptorAt 0x1050).gateSelector 0x1008 ∧
      (prot.descriptorAt 0x1008).dpl = prot.cpl ∧ (prot.descriptorAt 0x1050).limit ≤ (prot.descriptorAt 0x1008).limit ∧
      frameStop prot prot.ss (prot.reg SP) 2 = none) ∧
    ((prot3.descriptorAt 0x1008).dpl < prot3.cpl ∧ (prot3.descriptorAt 0x1008).isConforming = false ∧
      IsFarJump (.jmpFar 0 0x53) prot3 0 0x53 ∧ IsFarCall (.callFar 0 0x50) prot 0 0x50) :=
  ⟨prot_ready.1, names (by decide +kernel), by decide +kernel, by decide +kernel, by decide +kernel,
    ⟨by decide +kernel, by decide +kernel, ⟨names (by decide +kernel), by decide +kernel⟩, by decide +kernel,
      by decide +kernel, by decide +kernel⟩,
    by decide +kernel, by decide +kernel, .inl rfl, .inl rfl⟩

/-- The gate of selector 0x50 with the destinations 0 (null), 0x58 (beyond the GDT), 0x10 (data), 0x1B (code of level 3, at
CPL 0), code that is not present, and code with a limit below the gate's offset. -/
theorem witness_CallGateSameLevel_fails :
    let dst (sel : Nat) := withBytes 0x1052 [sel, 0] prot
    let dest (s : State) := (s.descriptorAt 0x1050).gateSelector
    let absent := withBytes 0x100D [0x1A] prot
    let short := withBytes 0x1008 [0xFF, 0x01] prot
    dest (dst 0) &&& 0xFFFC = 0 ∧ (dest (dst 0x58) &&& 0xFFFC ≠ 0 ∧ (dst 0x58).descriptorAddr (dest (dst 0x58)) = none) ∧
    ((dst 0x10).Names (dest (dst 0x10)) 0x1010 ∧ ((dst 0x10).descriptorAt 0x1010).isCode = false) ∧
    ((dst 0x1B).Names (dest (dst 0x1B)) 0x1018 ∧ (dst 0x1B).cpl < ((dst 0x1B).descriptorAt 0x1018).dpl) ∧
    (absent.Names (dest absent) 0x1008 ∧ (absent.descriptorAt 0x1008).isCode = true ∧
      (absent.descriptorAt 0x1008).present = false) ∧
    (short.NamesCode (dest short) 0x1008 ∧ (short.descriptorAt 0x1008).limit < (short.descriptorAt 0x1050).limit) :=
  ⟨by decide +kernel, by decide +kernel, ⟨names (by decide +kernel), by decide +kernel⟩,
    ⟨names (by decide +kernel), by decide +kernel⟩, ⟨names (by decide +kernel), by decide +kernel⟩,
    ⟨names (by decide +kernel), by decide +kernel⟩, by decide +kernel⟩

/-- Level 31, the deepest; bounds that hold with equality and that fail by one. The third word of a frame and the second
frame pointer that may not be accessed. -/
theorem witness_EnterLeaveBound : real.Ready ∧
    (∀ k, k ≤ (31#8).toNat % 32 → real.pushStop (real.reg SP - BitVec.ofNat 16 (2 * k + 2)) = none) ∧
    (∀ k, k < (31#8).toNat % 32 → 0 < k → real.accessStop .ss (real.reg BP - BitVec.ofNat 16 (2 * k)) .word false = none) ∧
    real.accessStop .ss (real.reg BP) .word false = none ∧ real.wordsStop (.direct 0xFFFC) 2 false = none ∧
    ((0x8000#16).toInt ≤ (0x8000#16).toInt ∧ (0x7FFF#16).toInt < (0x8000#16).toInt + 0x10000) ∧
    (let s : State := { prot with ss := { prot.ss with limit := 0x07FB, rights := .descr 0x97 } }
     s.Ready ∧ (∀ k, k < 2 → s.pushStop (s.reg SP - BitVec.ofNat 16 (2 * k + 2)) = none) ∧
     s.pushStop (s.reg SP - BitVec.ofNat 16 (2 * 2 + 2)) = some (.exc 12 (some 0)) ∧
     (∀ k, 0 < k → k < 3 → k ≤ 2 → s.accessStop .ss (s.reg BP - BitVec.ofNat 16 (2 * k)) .word false = none)) ∧
    (let s := real.setReg BP 3
     s.Ready ∧ (∀ k, k < 2 → s.pushStop (s.reg SP - BitVec.ofNat 16 (2 * k + 2)) = none) ∧
     (∀ k, 0 < k → k < 2 → s.accessStop .ss (s.reg BP - BitVec.ofNat 16 (2 * k)) .word false = none) ∧
     s.accessStop .ss (s.reg BP - BitVec.ofNat 16 (2 * 2)) .word false = some (.exc 13 none)) := by
  refine ⟨real_ready, by decide +kernel, by decide +kernel, by decide +kernel, by decide +kernel, by decide +kernel,
    ⟨⟨rfl, rfl⟩, by decide +kernel, by decide +kernel, fun k h1 _ h3 => ?_⟩, ⟨rfl, rfl⟩, by decide +kernel, fun k h1 h2 => ?_,
    by decide +kernel⟩
  · obtain rfl | rfl : k = 1 ∨ k = 2 := by omega
    all_goals decide +kernel
  · obtain rfl : k = 1 := by omega
    decide +kernel

/-- The last vector of the table, and SP = 6, 2 and 0. -/
theorem witness_InterruptEntryReal : real.Ready ∧ (real.setReg SP 6).canEnterReal 0xFF ∧
    (real.setReg SP 2).canEnterReal 3 ∧ (real.setReg SP 0).canEnterReal 4 ∧ real.canEnterReal 6 ∧
    real.flags.ovf = false :=
  ⟨real_ready, by unfold State.canEnterReal; decide +kernel⟩

/-- In real mode a table that ends with vector 8 or just before its end; in protected mode an IDT that ends with gate 8 or
just before its end. -/
theorem witness_DoubleFault : real.Ready ∧
    let r (limit : Word) : State := { real with idtr := { base := 0, limit := limit } }
    let p (limit : Word) : State := { prot with idtr := { base := 0x2000, limit := limit } }
    ((r 35).msw.pe = false ∧ (r 35).idtr.limit.toNat < 4 * (9#8).toNat + 3 ∧ (r 35).canEnterReal 8 ∧
      (r 34).idtr.limit.toNat < 35) ∧
    ((p 71).msw.pe = true ∧ (p 71).idtr.limit.toNat < 8 * (9#8).toNat + 7 ∧ (p 70).idtr.limit.toNat < 71 ∧
      ∃ t, enter 8 (p 71).curIp false (some 0) { p 71 with pfx := noPrefixes, trap := false } = .ok () t) :=
  ⟨real_ready, ⟨rfl, by decide, by unfold State.canEnterReal; decide +kernel, by decide⟩, rfl, by decide, by decide,
    okOf_some (by decide +kernel)⟩

/-- SP = 0xFFFA holds the last frame; SP = 2 pushes one that goes on at the top of the segment. -/
theorem witness_InterruptReturnReal : ((real.setReg SP 0xFFFA).Ready ∧ (real.setReg SP 0xFFFA).msw.pe = false ∧
    (real.setReg SP 0xFFFA).reg SP ≠ 0xFFFF ∧ (real.setReg SP 0xFFFA).reg SP ≠ 0xFFFD ∧
    (real.setReg SP 0xFFFA).reg SP ≠ 0xFFFB) ∧
    (real.setReg SP 2).Inv ∧ (real.setReg SP 2).Ready ∧ (real.setReg SP 2).canEnterReal 0xFF ∧
    ∀ a ∈ (real.setReg SP 2).pushCells 3, (real.setReg SP 2).isRam a = true :=
  ⟨⟨⟨rfl, rfl⟩, by decide +kernel⟩, by unfold State.Inv State.RealModeForm SegReg.isReal; decide +kernel, ⟨rfl, rfl⟩,
    by unfold State.canEnterReal; decide +kernel, by decide +kernel⟩

/-- Vector 0x23 lies beyond the IDT, vector 1 holds no gate; gate 0x20 is too privileged for CPL 3, as an interrupt gate and
as a task gate; gate 0x21 is not present, nor is a task gate in place of 0x20; gate 0x20 is entered at CPL 0, by INT n and
by an exception with an error code. -/
theorem witness_SoftwareInterruptProtected : prot.msw.pe = true ∧ prot.Ready ∧
    IsSoftwareInterrupt (.intN 0x23) prot 0x23 ∧ prot.idtr.limit.toNat < 8 * (0x23#8).toNat + 7 ∧
    (prot.InIdt 1 ∧ ¬(prot.descriptorAt (prot.gateAddr 1)).IsIdtGate) ∧
    (prot3.InIdt 0x20 ∧ (prot3.descriptorAt (prot3.gateAddr 0x20)).IsIdtGate ∧
      (prot3.descriptorAt (prot3.gateAddr 0x20)).dpl < prot3.cpl) ∧
    (let p := withBytes 0x2105 [0x85] prot3
     p.InIdt 0x20 ∧ (p.descriptorAt (p.gateAddr 0x20)).systemType = some 5 ∧
      (p.descriptorAt (p.gateAddr 0x20)).dpl < p.cpl) ∧
    (prot3.InIdt 0x21 ∧ (prot3.descriptorAt (prot3.gateAddr 0x21)).IsIdtGate ∧
      prot3.cpl ≤ (prot3.descriptorAt (prot3.gateAddr 0x21)).dpl ∧
      (prot3.descriptorAt (prot3.gateAddr 0x21)).present = false) ∧
    (let p := withBytes 0x2105 [0x05] prot
     p.InIdt 0x20 ∧ (p.descriptorAt (p.gateAddr 0x20)).systemType = some 5 ∧
      (p.descriptorAt (p.gateAddr 0x20)).present = false) ∧
    (prot.HasGate 0x20 ∧ prot.cpl ≤ (prot.descriptorAt (prot.gateAddr 0x20)).dpl ∧
      (prot.descriptorAt (prot.gateAddr 0x20)).present = true ∧
      (prot.descriptorAt (prot.gateAddr 0x20)).gateSelector = 0x08 ∧ prot.NamesCode 0x08 0x1008 ∧
      (prot.descriptorAt 0x1008).dpl = prot.cpl ∧
      (prot.descriptorAt (prot.gateAddr 0x20)).limit ≤ (prot.descriptorAt 0x1008).limit ∧
      frameStop prot prot.ss (prot.reg SP) 3 = none ∧ frameStop prot prot.ss (prot.reg SP) 4 = none) :=
  ⟨rfl, prot_ready.1.2, .inl rfl, by decide +kernel, by unfold State.InIdt Descriptor.IsIdtGate; decide +kernel,
    by unfold State.InIdt Descriptor.IsIdtGate; decide +kernel, by unfold State.InIdt; decide +kernel,
    by unfold State.InIdt Descriptor.IsIdtGate; decide +kernel, by unfold State.InIdt; decide +kernel,
    by unfold State.HasGate; decide +kernel, by decide +kernel, by decide +kernel, by decide +kernel,
    ⟨names (by decide +kernel), by decide +kernel⟩, by decide +kernel⟩

/-- Gate 0x22 with the destinations 0 (null), 0x58 (beyond the GDT), 0x10 (data), 0x1B (code of level 3, at CPL 0), code that
is not present, and code with a limit below the gate's offset; a stack with room for three words and not for four, and one
with room for two. -/
theorem witness_SoftwareInterruptProtected_fails :
    let dst (sel : Nat) := withBytes 0x2112 [sel, 0] prot
    let gate (s : State) := s.descriptorAt (s.gateAddr 0x22)
    let absent := withBytes 0x100D [0x1A] prot
    let short := withBytes 0x1008 [0xFF, 0x01] prot
    let full (limit : Word) : State := { prot with ss := { prot.ss with limit := limit, rights := .descr 0x97 } }
    ((dst 0).HasGate 0x22 ∧ (dst 0).cpl ≤ (gate (dst 0)).dpl ∧ (gate (dst 0)).present = true ∧
      (gate (dst 0)).gateSelector &&& 0xFFFC = 0) ∧
    ((gate (dst 0x58)).gateSelector &&& 0xFFFC ≠ 0 ∧ (dst 0x58).descriptorAddr (gate (dst 0x58)).gateSelector = none) ∧
    ((dst 0x10).Names (gate (dst 0x10)).gateSelector 0x1010 ∧ ((dst 0x10).descriptorAt 0x1010).isCode = false) ∧
    ((dst 0x1B).Names (gate (dst 0x1B)).gateSelector 0x1018 ∧ (dst 0x1B).cpl < ((dst 0x1B).descriptorAt 0x1018).dpl) ∧
    (absent.Names (gate absent).gateSelector 0x1008 ∧ (absent.descriptorAt 0x1008).isCode = true ∧
      (absent.descriptorAt 0x1008).dpl ≤ absent.cpl ∧ (absent.descriptorAt 0x1008).present = false) ∧
    (short.NamesCode (gate short).gateSelector 0x1008 ∧ (short.descriptorAt 0x1008).dpl = short.cpl ∧
      frameStop short short.ss (short.reg SP) 3 = none ∧ (short.descriptorAt 0x1008).limit < (gate short).limit) ∧
    ((full 0x07F9).HasGate 0x22 ∧ frameStop (full 0x07F9) (full 0x07F9).ss 0x0800 3 = none ∧
      frameStop (full 0x07F9) (full 0x07F9).ss 0x0800 4 = some (.exc 12 (some 0)) ∧
      frameStop (full 0x07FB) (full 0x07FB).ss 0x0800 3 = some (.exc 12 (some 0))) :=
  ⟨by unfold State.HasGate; decide +kernel, by decide +kernel, ⟨names (by decide +kernel), by decide +kernel⟩,
    ⟨names (by decide +kernel), by decide +kernel⟩, ⟨names (by decide +kernel), by decide +kernel⟩,
    ⟨⟨names (by decide +kernel), by decide +kernel⟩, by decide +kernel⟩, by unfold State.HasGate; decide +kernel⟩

/-- Vector 1 holds no gate: vector 8 is entered, and where its gate is not present either that is an exception too. -/
theorem witness_DoubleFaults :
    let again (s : State) := enter 8 s.curIp false (some 0) { s with pfx := noPrefixes, trap := false }
    let gone := withBytes 0x2045 [0x06] prot
    (∃ t, again prot = .ok () t) ∧ gone.InIdt 1 ∧ ¬(gone.descriptorAt (gone.gateAddr 1)).IsIdtGate ∧
    ∃ t, again gone = .error (.exc 11 (some 0x42)) t :=
  ⟨okOf_some (by decide +kernel), by unfold State.InIdt; decide +kernel,
    by unfold Descriptor.IsIdtGate; decide +kernel, excOf_some (by decide +kernel)⟩

theorem hasInnerStack {s : State} {level : Nat} {b : Addr} {count : Nat}
    (h : 4 * level + 5 ≤ s.tr.limit.toNat ∧ s.crossesTop (s.tr.base + BitVec.ofNat 24 (2 + 4 * level)) 2 = false ∧
      ((s.tssStack level).2 &&& 0xFFFC ≠ 0 ∧ s.descriptorAddr (s.tssStack level).2 = some b ∧ s.crossesTop b 4 = false) ∧
      selectorRpl (s.tssStack level).2 = level ∧ (s.descriptorAt b).dpl = level ∧
      (s.descriptorAt b).isWritableData = true ∧ (s.descriptorAt b).present = true ∧
      frameStop s (segmentOf (s.descriptorAt b) (s.tssStack level).2) (s.tssStack level).1 count = none) :
    s.HasInnerStack level b count := h

/-- From CPL 3 to level 0: the call gate of selector 0x53 with two parameters, and the trap gate of vector 0x22. -/
theorem witness_InnerLevelEntry : prot3.msw.pe = true ∧ prot3.Ready ∧
    (prot3.descriptorAt 0x1008).isConforming = false ∧ (prot3.descriptorAt 0x1008).dpl < prot3.cpl ∧
    IsFarCall (.callFar 0 0x53) prot3 0 0x53 ∧ prot3.NamesCallGate 0x53 0x1050 ∧
    (prot3.descriptorAt 0x1050).wordCount = 2 ∧ prot3.NamesCode (prot3.descriptorAt 0x1050).gateSelector 0x1008 ∧
    (prot3.descriptorAt 0x1050).limit ≤ (prot3.descriptorAt 0x1008).limit ∧ prot3.Pops 2 ∧
    prot3.HasInnerStack 0 0x1010 6 ∧ IsSoftwareInterrupt (.intN 0x22) prot3 0x22 ∧ prot3.HasGate 0x22 ∧
    (prot3.descriptorAt (prot3.gateAddr 0x22)).present = true ∧ prot3.cpl ≤ (prot3.descriptorAt (prot3.gateAddr 0x22)).dpl ∧
    (prot3.descriptorAt (prot3.gateAddr 0x22)).gateSelector = 0x08 ∧ prot3.NamesCode 0x08 0x1008 ∧
    (prot3.descriptorAt (prot3.gateAddr 0x22)).limit ≤ (prot3.descriptorAt 0x1008).limit ∧
    prot3.HasInnerStack 0 0x1010 5 :=
  ⟨rfl, prot3_ready.1.2, by decide +kernel, by decide +kernel, .inl rfl, ⟨names (by decide +kernel), by decide +kernel⟩,
    by decide +kernel, ⟨names (by decide +kernel), by decide +kernel⟩, by decide +kernel,
    by unfold State.Pops; decide +kernel, hasInnerStack (by decide +kernel), .inl rfl,
    by unfold State.HasGate; decide +kernel, by decide +kernel, by decide +kernel, by decide +kernel,
    ⟨names (by decide +kernel), by decide +kernel⟩, by decide +kernel, hasInnerStack (by decide +kernel)⟩

/-- The stack of level 0 in a TSS that ends within it, with a null selector, one beyond the GDT, one of code, one of data
that is not present; a segment with room for three words; a parameter word that may not be read; code with a limit below
the offsets of both gates. -/
theorem witness_InnerLevelEntry_fails :
    let onto (sel : Nat) := withBytes 0x7004 [sel, 0] prot3
    let tight := withBytes 0x1010 [0xF9, 0x07, 0x00, 0x00, 0x02, 0x96] prot3
    let below : State := { prot3 with ss := { prot3.ss with limit := 0x0800, rights := .descr 0xF7 } }
    let short := withBytes 0x1008 [0xFF, 0x01] prot3
    ({ prot3 with tr := { prot3.tr with limit := 4 } } : State).InnerStackFails 0 10 0x38 ∧
    (onto 0).InnerStackFails 0 10 0 ∧ (onto 0x58).InnerStackFails 0 10 0x58 ∧ (onto 0x08).InnerStackFails 0 10 0x08 ∧
    (onto 0x40).InnerStackFails 0 12 0x40 ∧ tight.LacksRoom 0 0x1010 5 ∧ tight.HasInnerStack 0 0x1010 3 ∧
    (below.HasInnerStack 0 0x1010 0 ∧ below.accessStop .ss (below.reg SP + 2) .word false = none ∧
      below.accessStop .ss (below.reg SP) .word false = some (.exc 12 (some 0)) ∧ below.NamesCallGate 0x53 0x1050 ∧
      (below.descriptorAt 0x1050).wordCount = 2) ∧
    (short.HasInnerStack 0 0x1010 6 ∧ (short.descriptorAt 0x1008).limit < (short.descriptorAt 0x1050).limit ∧
      (short.descriptorAt 0x1008).limit < (short.descriptorAt (short.gateAddr 0x22)).limit) := by
  refine ⟨?_, ?_, ?_, ?_, ?_, ⟨hasInnerStack (by decide +kernel), 12, some 0, by decide +kernel⟩,
    hasInnerStack (by decide +kernel), ⟨hasInnerStack (by decide +kernel), by decide +kernel, by decide +kernel,
      ⟨names (by decide +kernel), by decide +kernel⟩, by decide +kernel⟩, hasInnerStack (by decide +kernel), by decide +kernel⟩
  · exact ⟨rfl, by decide +kernel⟩
  · exact ⟨by decide +kernel, .inl (by decide +kernel)⟩
  · exact ⟨by decide +kernel, .inr (.inl (by decide +kernel))⟩
  · exact ⟨by decide +kernel, .inr (.inr ⟨0x1008, names (by decide +kernel), .inl (by decide +kernel)⟩)⟩
  · exact ⟨by decide +kernel, .inr (.inr ⟨0x1040, names (by decide +kernel), .inr (by decide +kernel)⟩)⟩

/-- A stack of level 0 with a return to level 3: offset, CS, FLAGS or two bytes of parameters, SP, SS. -/
def outerState : State := withBytes 0x20800 [0x55, 0x00, 0x1B, 0x00, 0x02, 0x32, 0x00, 0x01, 0x23, 0x00] prot

theorem witness_InterruptReturnProtected :
    (iretState.InProtected ∧ IsReturn .iret iretState 6 0 ∧
      (iretState.load .ss (iretState.reg SP) .word : Word) = 0 ∧
      (iretState.load .ss (iretState.reg SP + 2) .word : Word) = 0x1B ∧ iretState.Names 0x1B 0x1018 ∧
      selectorRpl 0x1B = iretState.cpl ∧ (iretState.descriptorAt 0x1018).isCode = true ∧
      (iretState.descriptorAt 0x1018).isConforming = false ∧ (iretState.descriptorAt 0x1018).dpl = selectorRpl 0x1B ∧
      (iretState.descriptorAt 0x1018).present = true ∧ 0 ≤ (iretState.descriptorAt 0x1018).limit) ∧
    (outerState.InProtected ∧ IsReturn .iret outerState 6 0 ∧ IsReturn (.retFarImm 2) outerState 4 2 ∧
      (outerState.load .ss (outerState.reg SP + 2) .word : Word) = 0x1B ∧ outerState.Names 0x1B 0x1018 ∧
      outerState.cpl < selectorRpl 0x1B ∧ (outerState.descriptorAt 0x1018).dpl = selectorRpl 0x1B ∧
      outerState.accessStop .ss (outerState.reg SP + 6 + 0) .word false = none ∧
      outerState.accessStop .ss (outerState.reg SP + 6 + 0 + 2) .word false = none ∧
      (outerState.load .ss (outerState.reg SP + 6 + 0 + 2) .word : Word) = 0x23 ∧ outerState.Names 0x23 0x1020 ∧
      selectorRpl 0x23 = selectorRpl 0x1B ∧ (outerState.descriptorAt 0x1020).dpl = selectorRpl 0x1B ∧
      (outerState.descriptorAt 0x1020).isWritableData = true ∧ (outerState.descriptorAt 0x1020).present = true) :=
  ⟨⟨⟨rfl, ⟨rfl, rfl⟩⟩, .inr (.inr ⟨rfl, rfl, rfl, by unfold State.Pops; decide +kernel, rfl⟩), by decide +kernel,
      by decide +kernel, names (by decide +kernel), by decide +kernel⟩,
    ⟨rfl, ⟨rfl, rfl⟩⟩, .inr (.inr ⟨rfl, rfl, rfl, by unfold State.Pops; decide +kernel, rfl⟩),
    .inr (.inl ⟨rfl, rfl, by unfold State.Pops; decide +kernel⟩), by decide +kernel, names (by decide +kernel),
    by decide +kernel, by decide +kernel, by decide +kernel, by decide +kernel, by decide +kernel,
    names (by decide +kernel), by decide +kernel⟩

/-- A far return from level 3 to: a null selector; level 0; 0x5B, beyond the GDT; data; code that is not present. From
level 0 to level 3 with the stack selectors: null; 0x5B; 0x10, of level 0; 0x23, not present. -/
theorem witness_InterruptReturnProtected_fails :
    let dst (sel : Nat) := withBytes 0x40802 [sel, 0] iretState
    let absent := withBytes 0x101D [0x7A] iretState
    let onto (sel : Nat) := withBytes 0x20808 [sel, 0] outerState
    let gone := withBytes 0x1025 [0x72] outerState
    IsReturn .iret (dst 3) 6 0 ∧ (3#16 &&& 0xFFFC = 0) ∧ selectorRpl 0x08 < (dst 0x08).cpl ∧
    (dst 0x5B).descriptorAddr 0x5B = none ∧
    ((dst 0x23).Names 0x23 0x1020 ∧ ((dst 0x23).descriptorAt 0x1020).isCode = false) ∧
    (absent.Names 0x1B 0x1018 ∧ (absent.descriptorAt 0x1018).isCode = true ∧ (absent.descriptorAt 0x1018).dpl = 3 ∧
      (absent.descriptorAt 0x1018).present = false) ∧
    ((onto 3).load .ss ((onto 3).reg SP + 6 + 0 + 2) .word &&& 0xFFFC = (0 : Word)) ∧
    (onto 0x5B).descriptorAddr 0x5B = none ∧ ((onto 0x10).Names 0x10 0x1010 ∧ selectorRpl 0x10 ≠ selectorRpl 0x1B) ∧
    (gone.Names 0x23 0x1020 ∧ (gone.descriptorAt 0x1020).dpl = 3 ∧ (gone.descriptorAt 0x1020).isWritableData = true ∧
      (gone.descriptorAt 0x1020).present = false) :=
  ⟨.inr (.inr ⟨rfl, rfl, rfl, by unfold State.Pops; decide +kernel, rfl⟩), by decide, by decide +kernel, by decide +kernel,
    ⟨names (by decide +kernel), by decide +kernel⟩, ⟨names (by decide +kernel), by decide +kernel⟩, by decide +kernel,
    by decide +kernel, ⟨names (by decide +kernel), by decide⟩, names (by decide +kernel), by decide +kernel⟩

/-- A trap, an NMI in shutdown, a segment overrun, an INTR request with IF set, both masks, and no event in shutdown. -/
theorem witness_HardwareInterrupts :
    let trap : State := { real with trap := true }
    let nmi : State := { real with nmiPending := true, shutdown := true }
    let ovr : State := { real with overrunPending := true }
    let intr : State := { real with
      flags := { real.flags with ie := true }, pins := { real.pins with intr := some 0xFF } }
    (trap.event = some .singleStep ∧ trap.pins.reset = false ∧ trap.pfx.len = 0 ∧ trap.inhibitAll = false ∧
      trap.shutdown = false ∧ trap.canEnterReal 1) ∧
    (nmi.event = some .nmi ∧ nmi.pins.reset = false ∧ nmi.pfx.len = 0 ∧ nmi.canEnterReal 2) ∧
    (ovr.event = some .overrun ∧ ovr.pins.reset = false ∧ ovr.pfx.len = 0 ∧ ovr.canEnterReal 9) ∧
    (intr.event = some (.interrupt 0xFF) ∧ intr.pins.reset = false ∧ intr.pfx.len = 0 ∧ intr.canEnterReal 0xFF) ∧
    real.flags.ie = false ∧ ({ nmi with nmiInService := true } : State).nmiInService = true ∧ nmi.shutdown = true ∧
    real.trap = false ∧ ∃ t, takeException 13 (some 0) real = .next t :=
  ⟨by unfold State.canEnterReal; decide +kernel, by unfold State.canEnterReal; decide +kernel,
    by unfold State.canEnterReal; decide +kernel, by unfold State.canEnterReal; decide +kernel, rfl, rfl, rfl, rfl,
    nextOf_some (by decide +kernel)⟩

theorem witness_HaltAndShutdown :
    let s : State := { real with halted := true }
    real.Ready ∧ real.cpl = 0 ∧ s.pins.reset = false ∧ s.pfx.len = 0 ∧ s.event = none ∧ s.halted = true :=
  ⟨real_ready, by decide +kernel⟩

/-- A JMP, a CALL and an IRET from `prot` to the task of TSS 0x30: the old TSS at 0x7000 and both descriptors are RAM. -/
theorem witness_TaskSwitch : prot.InProtected ∧ prot.Names 0x30 0x1030 ∧ selectorTi 0x30 = false ∧
    (prot.descriptorAt 0x1030).systemType = some 1 ∧ max prot.cpl (selectorRpl 0x30) ≤ (prot.descriptorAt 0x1030).dpl ∧
    Memory.wf prot.mem = true ∧ (∀ a ∈ prot.savedCells, prot.isRam a = true) ∧
    prot.isRam (prot.physical (0x1030 + 5)) = true ∧ prot.isRam (prot.physical (0x1038 + 5)) = true ∧
    prot.isRam (prot.physical 0x6000) = true ∧ prot.isRam (prot.physical 0x6001) = true ∧
    IsFarJump (.jmpFar 0 0x30) prot 0 0x30 ∧ IsFarCall (.callFar 0 0x30) prot 0 0x30 ∧
    (∃ u, taskSwitch .jmp 0x30 (prot.descriptorAt 0x1030) prot.ip prot = .ok () u) ∧
    (∃ u, taskSwitch .call 0x30 (prot.descriptorAt 0x1030) prot.ip prot = .ok () u) ∧
    ∃ u, taskSwitch .iret 0x30 (prot.descriptorAt 0x1030) prot.ip prot = .ok () u :=
  ⟨prot_ready.1, names (by decide +kernel), by decide, by decide +kernel, by decide +kernel, by decide +kernel,
    by decide +kernel, by decide +kernel, by decide +kernel, by decide +kernel, by decide +kernel, .inl rfl, .inl rfl,
    okOf_some (by decide +kernel), okOf_some (by decide +kernel), okOf_some (by decide +kernel)⟩

/-- `prot` with a task gate to TSS 0x30 in place of the call gate of selector 0x50, and one in place of gate 0x20. -/
def taskGates : State := (withBytes 0x1050 (descriptor 0 0x30 0x85) ∘ withBytes 0x2100 (descriptor 0 0x30 0x85)) prot

/-- `prot` with NT set and a back link to the busy TSS 0x30. -/
def nested : State :=
  let s := (withBytes 0x1035 [0x83] ∘ withBytes 0x7000 [0x30, 0x00]) prot
  { s with flags := { s.flags with nt := true } }

/-- Through the task gates, by IRET, and by an exception whose error code goes to the new stack. A TSS that is not present
or too short, a task gate that is not present, that names no TSS or a null selector, and back links that name none. -/
theorem witness_TaskSwitch_gates :
    let absent := withBytes 0x1035 [0x01] prot
    let short := withBytes 0x1030 [0x2A] prot
    let gone := withBytes 0x1055 [0x05] taskGates
    let dst (sel : Nat) := withBytes 0x1052 [sel, 0] taskGates
    let back (sel : Nat) := withBytes 0x7000 [sel, 0] nested
    (taskGates.Names 0x50 0x1050 ∧ (taskGates.descriptorAt 0x1050).systemType = some 5 ∧
      (taskGates.descriptorAt 0x1050).present = true ∧ (taskGates.descriptorAt 0x1050).gateSelector = 0x30 ∧
      taskGates.Names 0x30 0x1030 ∧ IsFarCall (.callFar 0 0x50) taskGates 0 0x50 ∧
      ∃ u, taskSwitch .call 0x30 (taskGates.descriptorAt 0x1030) taskGates.ip taskGates = .ok () u) ∧
    (taskGates.HasTaskGate 0x20 0x1030 ∧ taskGates.cpl ≤ (taskGates.descriptorAt (taskGates.gateAddr 0x20)).dpl ∧
      ∃ u, taskSwitch .int 0x30 (taskGates.descriptorAt 0x1030) taskGates.ip taskGates = .ok () u) ∧
    (nested.InProtected ∧ nested.flags.nt = true ∧ nested.crossesTop nested.tr.base 1 = false ∧
      nested.readWord nested.tr.base = 0x30 ∧ nested.Names 0x30 0x1030 ∧ (nested.descriptorAt 0x1030).systemType = some 3 ∧
      ∃ u, taskSwitch .iret 0x30 (nested.descriptorAt 0x1030) nested.ip nested = .ok () u) ∧
    ((absent.descriptorAt 0x1030).systemType = some 1 ∧ (absent.descriptorAt 0x1030).present = false) ∧
    ((short.descriptorAt 0x1030).present = true ∧ (short.descriptorAt 0x1030).limit.toNat < 0x2B) ∧
    ((gone.descriptorAt 0x1050).systemType = some 5 ∧ (gone.descriptorAt 0x1050).present = false) ∧
    (((dst 0).descriptorAt 0x1050).gateSelector = 0 ∧ ((dst 0x10).descriptorAt 0x1050).gateSelector = 0x10 ∧
      ((dst 0x10).descriptorAt 0x1010).systemType ≠ some 1) ∧
    ((back 0).readWord nested.tr.base = 0 ∧ (back 0x10).readWord nested.tr.base = 0x10 ∧
      ((back 0x10).descriptorAt 0x1010).systemType ≠ some 3) :=
  ⟨⟨names (by decide +kernel), by decide +kernel, by decide +kernel, by decide +kernel, names (by decide +kernel), .inl rfl,
      okOf_some (by decide +kernel)⟩,
    ⟨⟨by decide +kernel, by decide +kernel, by decide +kernel, by decide +kernel, names (by decide +kernel),
      by decide +kernel, by decide +kernel⟩, by decide +kernel, okOf_some (by decide +kernel)⟩,
    ⟨⟨rfl, ⟨rfl, rfl⟩⟩, rfl, by decide +kernel, by decide +kernel, names (by decide +kernel), by decide +kernel,
      okOf_some (by decide +kernel)⟩, by decide +kernel⟩

/-- A task gate in the IDT to a null selector, to one of the LDT, to one beyond the GDT, to data, to a busy TSS, to a TSS that
is not present and to one that is too short; a back link to a busy TSS that is too short. -/
theorem witness_TaskSwitch_gate_fails :
    let dst (sel : Nat) := withBytes 0x2102 [sel, 0] taskGates
    let target (s : State) := (s.descriptorAt (s.gateAddr 0x20)).gateSelector
    let absent := withBytes 0x1035 [0x01] taskGates
    let short := withBytes 0x1030 [0x2A] taskGates
    let back := withBytes 0x1030 [0x2A] nested
    ((dst 0).InIdt 0x20 ∧ ((dst 0).descriptorAt ((dst 0).gateAddr 0x20)).systemType = some 5 ∧
      ((dst 0).descriptorAt ((dst 0).gateAddr 0x20)).present = true ∧ target (dst 0) &&& 0xFFFC = 0) ∧
    selectorTi (target (dst 0x34)) = true ∧ (dst 0x58).descriptorAddr (target (dst 0x58)) = none ∧
    ((dst 0x10).Names (target (dst 0x10)) 0x1010 ∧ selectorTi (target (dst 0x10)) = false ∧
      ((dst 0x10).descriptorAt 0x1010).systemType ≠ some 1) ∧
    ((dst 0x38).Names (target (dst 0x38)) 0x1038 ∧ ((dst 0x38).descriptorAt 0x1038).systemType = some 3) ∧
    (absent.Names (target absent) 0x1030 ∧ (absent.descriptorAt 0x1030).systemType = some 1 ∧
      (absent.descriptorAt 0x1030).present = false) ∧
    (short.Names (target short) 0x1030 ∧ (short.descriptorAt 0x1030).systemType = some 1 ∧
      (short.descriptorAt 0x1030).present = true ∧ (short.descriptorAt 0x1030).limit.toNat < 0x2B) ∧
    (back.InProtected ∧ back.flags.nt = true ∧ back.crossesTop back.tr.base 1 = false ∧
      back.Names (back.readWord back.tr.base) 0x1030 ∧ (back.descriptorAt 0x1030).systemType = some 3 ∧
      (back.descriptorAt 0x1030).present = true ∧ (back.descriptorAt 0x1030).limit.toNat < 0x2B) :=
  ⟨by unfold State.InIdt; decide +kernel, by decide +kernel, by decide +kernel,
    ⟨names (by decide +kernel), by decide +kernel⟩, ⟨names (by decide +kernel), by decide +kernel⟩,
    ⟨names (by decide +kernel), by decide +kernel⟩, ⟨names (by decide +kernel), by decide +kernel⟩,
    ⟨rfl, ⟨rfl, rfl⟩⟩, rfl, by decide +kernel, names (by decide +kernel), by decide +kernel⟩

theorem witness_FlagInstructions : real.Ready ∧ (real.setReg SP 0xFFFE).accessStop .ss 0xFFFE .word false = none ∧
    iopl3.Ready ∧ iopl3.cpl ≤ iopl3.flags.iopl.toNat :=
  ⟨real_ready, by decide +kernel, ⟨rfl, rfl⟩, by decide +kernel⟩

theorem witness_PrivilegedInstructions : prot3.InProtected ∧ prot3.decodedReal = false ∧ prot3.cpl ≠ 0 ∧ real.msw.pe = false ∧ real.Ready ∧
    real.wordsStop (.direct 0xFFFA) 3 false = none ∧ real.rmStop lastWord .word false = none ∧
    real.entersWithCpl 1 = false :=
  ⟨prot3_ready.1, prot3_ready.2, by decide +kernel, rfl, real_ready, by decide +kernel⟩

/-- IOPL = 2 is one below CPL 3; the second clause has a LOCK prefix. -/
theorem witness_IoPrivilege :
    let s : State := { prot3 with flags := { prot3.flags with iopl := 2 } }
    s.msw.pe = true ∧ s.flags.iopl.toNat < s.cpl ∧ s.Ready ∧
    ({ s with pfx := { noPrefixes with lock := true, len := 1 } } : State).pfx.lock = true :=
  ⟨rfl, by decide +kernel, ⟨rfl, rfl⟩, rfl⟩

theorem witness_WaitAndEscape :
    let t : State := { real with msw := { real.msw with ts := true, mp := true } }
    let b : State := { real with pins := { real.pins with busy := true } }
    let e : State := { real with pins := { real.pins with error := true } }
    real.Ready ∧ (t.msw.ts = true ∧ t.msw.mp = true) ∧ b.pins.busy = true ∧ (e.pins.busy = false ∧ e.pins.error = true) ∧
    (real.msw.ts = false ∧ real.msw.em = false ∧ real.pins.busy = false ∧ real.pins.error = false) ∧
    real.escStop 1 1 (.reg 0) = none ∧ real.escStop 1 1 lastWord = none ∧
    (let o (off : Nat) : State := { real with
       ext := some { segment := real.ds, off := off, toMemory := false }, pins := { real.pins with pereq := 1 } }
     (o 0xFFFE).event = some .operand ∧ (o 0xFFFE).pins.reset = false ∧ (o 0xFFFE).pfx.len = 0 ∧
     segmentStop (o 0xFFFE) real.ds false 0xFFFE .word false = none ∧ (o 0x10000).event = some .operand) :=
  ⟨real_ready, by decide +kernel⟩

/-- LMSW may set PE where the low bits of CS are 0. -/
theorem witness_MachineStatusWord : real.Ready ∧ real.rmStop lastWord .word true = none ∧ real.cpl = 0 ∧
    real.rmStop (.reg 1) .word false = none ∧ real.cs.sel.extractLsb' 0 2 = 0 ∧ prot.Ready ∧ prot.cpl = 0 :=
  ⟨real_ready, by decide +kernel, by decide +kernel, rfl, by decide +kernel, ⟨rfl, rfl⟩, by decide +kernel⟩

/-- The last six bytes of a segment. -/
theorem witness_TableRegisters : real.Ready ∧ real.cpl = 0 ∧ real.wordsStop (.direct 0xFFFA) 3 false = none ∧
    real.wordsStop (.direct 0xFFFA) 3 true = none ∧ Memory.wf real.mem = true ∧
    ∀ a ∈ [0xFFFA, 0xFFFB, 0xFFFC, 0xFFFD, 0xFFFE, 0xFFFF], real.isRam a = true :=
  ⟨real_ready, by decide +kernel⟩

/-- BX holds 3 (null), 0x2C (in the LDT), 0x28 (an LDT), 0x30 (an available TSS); 0x58 lies beyond the GDT; an LDT and a TSS
that are not present. -/
theorem witness_SystemRegisters : prot.ReadyProtected ∧ prot.cpl = 0 ∧ prot.rmStop (.reg 3) .word true = none ∧
    ((prot.setReg BX 3).rmValue (.reg 3) .word : Word) &&& 0xFFFC = 0 ∧ selectorTi 0x2C = true ∧
    selectorTi 0x28 = false ∧ selectorTi 0x30 = false ∧
    (prot.descriptorAddr 0x28 = some 0x1028 ∧ prot.crossesTop 0x1028 4 = false ∧
      (prot.descriptorAt 0x1028).systemType = some 2 ∧ (prot.descriptorAt 0x1028).present = true) ∧
    (prot.descriptorAddr 0x30 = some 0x1030 ∧ prot.crossesTop 0x1030 4 = false ∧
      (prot.descriptorAt 0x1030).systemType = some 1 ∧ (prot.descriptorAt 0x1030).present = true ∧
      Memory.wf prot.mem = true ∧ prot.isRam (prot.physical (0x1030 + 5)) = true) ∧
    prot.descriptorAddr 0x58 = none ∧
    (((withBytes 0x102D [0x02] prot).descriptorAt 0x1028).systemType = some 2 ∧
      ((withBytes 0x102D [0x02] prot).descriptorAt 0x1028).present = false) ∧
    (((withBytes 0x1035 [0x01] prot).descriptorAt 0x1030).systemType = some 1 ∧
      ((withBytes 0x1035 [0x01] prot).descriptorAt 0x1030).present = false) :=
  ⟨prot_ready, by decide +kernel⟩

/-- Selector 0x10 passes every test at CPL 0, 0x48 fails VERR, 0x50 (a call gate) fails LSL, 0x58 lies beyond the GDT. -/
theorem witness_PointerTests : prot.ReadyProtected ∧ prot.rmStop (.reg 3) .word false = none ∧
    prot.descriptorAddr 0x58 = none ∧ (prot.descriptorAddr 0x10 = some 0x1010 ∧ prot.crossesTop 0x1010 4 = false ∧
      (prot.descriptorAt 0x1010).isReadable = true ∧ (prot.descriptorAt 0x1010).isWritableData = true ∧
      max prot.cpl (selectorRpl 0x10) ≤ (prot.descriptorAt 0x1010).dpl ∧ Memory.wf prot.mem = true ∧
      prot.isRam (prot.physical (0x1010 + 5)) = true ∧ (prot.descriptorAt 0x1010).isSegment = true) ∧
    (prot.descriptorAddr 0x48 = some 0x1048 ∧ (prot.descriptorAt 0x1048).isReadable = false) ∧
    (prot.descriptorAddr 0x50 = some 0x1050 ∧ (prot.descriptorAt 0x1050).systemType = some 4 ∧
      (prot.descriptorAt 0x1050).isSegment = false) :=
  ⟨prot_ready, by decide +kernel⟩

/-- RPL 2 below RPL 3, and equal RPLs; real mode; right after LMSW set PE. -/
theorem witness_AdjustRpl : prot.ReadyProtected ∧ prot.rmStop (.reg 3) .word false = none ∧
    prot.rmStop (.reg 3) .word true = none ∧ selectorRpl ((prot.setReg BX 0x0A).rmValue (.reg 3) .word) < selectorRpl 3 ∧
    selectorRpl 2 ≤ selectorRpl ((prot.setReg BX 0x0A).rmValue (.reg 3) .word) ∧ real.msw.pe = false ∧
    ({ prot with realQueue := some { off := prot.curIp, decoded := true } } : State).decodedReal = true :=
  ⟨prot_ready, by decide +kernel⟩

/-! A few steps in protected mode. -/

/-- INT 0x20 at CPL 0: IP, CS and FLAGS are pushed, CS:IP is that of the gate. -/
theorem test_int_protected :
    (nextOf (exec (.intN 0x20) prot)).any (fun t => t.ip == 0x0300 && t.cs.sel == 0x08 && t.reg SP == 0x07FA &&
      t.readWord 0x207FA == 0x0100 && t.readWord 0x207FC == 0x0008) = true := by
  decide +kernel

/-- HLT at CPL 3 is GeneralProtection(0): gate 13 leads to level 0, with the error code on the stack of the TSS. -/
theorem test_hlt_privileged : (nextOf (exec .hlt prot3)).any (fun t => t.cpl == 0 && t.reg SP == 0x07F4 &&
    t.readWord 0x207F4 == 0 && t.readWord 0x207F6 == 0x0100 && t.readWord 0x207FE == 0x0023) = true := by decide +kernel

/-- A JMP to TSS 0x30 leaves a task with the registers of the TSS, TS set and both busy marks moved. -/
theorem test_task_switch :
    (nextOf (exec (.jmpFar 0 0x30) prot)).any (fun t => t.ip == 0x0100 && t.reg SP == 0x0500 && t.msw.ts &&
      t.tr.sel == 0x30 && t.cs.base == 0x10000 && t.readByte 0x1035 == 0x83 && t.readByte 0x103D == 0x81) = true := by
  decide +kernel

/-- LAR of the data segment 0x10 sets ZF and loads the access rights. -/
theorem test_lar :
    (nextOf (exec (.lar 1 (.reg 3)) (prot.setReg BX 0x10))).any (fun t => t.flags.zf && t.reg CX == 0x9300) = true := by
  decide +kernel

/-- 45_protected_transfer.md R417: a CALL through a gate to level 0 copies its two parameters in their order. -/
theorem test_call_gate_inner_level :
    (nextOf (exec (.callFar 0 0x53) (withBytes 0x40800 [0xAA, 0xAA, 0xBB, 0xBB] prot3))).any (fun t =>
      t.cs.sel == 0x08 && t.ip == 0x0200 && t.ss.sel == 0x10 && t.reg SP == 0x07F4 &&
      ([0x207FE, 0x207FC, 0x207FA, 0x207F8, 0x207F6, 0x207F4] : List Addr).map t.readWord ==
        [0x0023, 0x0800, 0xBBBB, 0xAAAA, 0x001B, 0x0100]) = true := by
  decide +kernel

/-- 45_protected_transfer.md R417: RET to level 3, with two bytes of parameters; DS and ES are emptied (R399). -/
theorem test_ret_outer_level :
    (nextOf (exec (.retFarImm 2) outerState)).any (fun t => t.cs.sel == 0x1B && t.ip == 0x55 && t.ss.sel == 0x23 &&
      t.reg SP == 0x0102 && t.cpl == 3 && t.ds.rights == .null && t.es.sel == 0) = true := by
  decide +kernel

/-- 45_protected_transfer.md R386: the error code of a JMP through a gate to an inner level names the gate's destination. -/
theorem test_jump_gate_names_destination :
    (nextOf (exec (.jmpFar 0 0x53) prot3)).any (fun t => t.readWord 0x207F4 == 0x0008) = true := by decide +kernel

/-- 60_exceptions.md R519: the operand word after that at 0xFFFE is a segment overrun. -/
theorem test_operand_overrun :
    let s : State := { real with
      ext := some { segment := real.ds, off := 0xFFFE, toMemory := false }, pins := { real.pins with pereq := 2 } }
    ((nextOf (step s)).any fun t => !t.overrunPending && t.ext.isSome &&
      (nextOf (step t)).any fun u => u.overrunPending && u.ext == none) = true := by
  decide +kernel

/-- 60_exceptions.md R507: no single step follows the exception 8 of INT n beyond the table. -/
theorem test_int_beyond_table_not_stepped :
    (nextOf (exec (.intN 9) { real with idtr := { base := 0, limit := 35 }, trap := true })).any (fun t =>
      !t.trap && !t.shutdown && t.readWord 0x7FA == 0x0100) = true := by
  decide +kernel

/-- 20_memory.md R143: a store to ROM is dropped. -/
theorem test_rom :
    (nextOf (exec (.movMemAcc .word 0x300) { real with
      board := { real.board with memMap := [{ first := 0x300, last := 0x300, kind := .rom }] } })).any (fun t =>
      t.readWord 0x300 == 0x1200) = true := by
  decide +kernel

/-- 43_string.md R320: REP STOSW over its own bytes goes on with the instruction as it was decoded. -/
theorem test_rep_overwrites_itself :
    let s := (((withBytes 0x100 [0xF3, 0xAB] real).setReg AX 0x9090).setReg DI 0x0100).setReg CX 2
    ((nextOf (step s)).any fun t => (nextOf (step t)).any fun u => u.ip == 0x0100 && u.readWord 0x100 == 0x9090 &&
      (nextOf (step u)).any fun v => v.ip == 0x0102 && v.readWord 0x102 == 0x9090 && v.reg CX == 0) = true := by
  decide +kernel

/-- 92_eei_decisions.md D21: ENTER whose fifth frame pointer may not be read leaves the stack as it was. -/
theorem test_enter_all_or_none :
    (nextOf (exec (.enter 0 31) (withBytes 0x7F8 [0xAA, 0xBB] (real.setReg BP 9)))).any (fun t =>
      t.readWord 0x7F8 == 0xBBAA && t.readWord 0x7FA == 0x0100 && t.reg BP == 9) = true := by
  decide +kernel

/-- Real mode with 24 address lines and a table whose vector 3 has a word at physical 0xFFFFFF. -/
def tableAtTop : State :=
  { real with
    idtr := { base := 0xFFFFF3, limit := 0x03FF }, board := { real.board with a20A23Ignored := false } }

/-- 20_memory.md R85: the return address of a fetch past the segment is the instruction's own, and the fetch counts. -/
theorem test_past_end :
    let s : State := { pastEnd with stale := [(0x9000, 0)] }
    (nextOf (step s)).any (fun t => t.readWord (s.ss.base + zeroExtend24 (t.reg SP)) == 0xFFFF &&
      decide (s.free + 10 = t.free ∧ s.ticks + 2 = t.ticks)) = true := by
  decide +kernel

/-- The fault, if there is one. -/
def faultOf (o : Host.Outcome State Fault Refusal) : Option Fault :=
  match o with
  | .next _ => none
  | .fault f => some f
  | .refused _ => none

/-- 20_memory.md R70, 93_implementation_defined.md U1: what such a word reads is not stated. -/
theorem test_vector_at_top :
    faultOf (exec .int3 tableAtTop) = some .physicalOverrun := by
  decide +kernel

end Sys2Proof.Tests
end

/-! The 8-bit registers as the halves of AX, CX, DX and BX: what a write to one of them does to the 16-bit registers, and
from that what every register reads afterwards (00_scope.md R11, 10_state.md R21). -/

namespace Sys2Proof.Machine

/-! The number of an 8-bit register: the 16-bit register it lies in, and which half of it. -/

theorem and_three_of_low {r : Reg} (h : r.toNat < 4) : r &&& 3 = r := by
  revert r
  decide

theorem sub_four_of_high {r : Reg} (h : ¬ r.toNat < 4) : r - 4 = r &&& 3 := by
  revert r
  decide

theorem high_of_other_half {q r : Reg} (hsame : q &&& 3 = r &&& 3) (hne : q ≠ r) (hr : r.toNat < 4) : ¬ q.toNat < 4 := by
  revert q r
  decide

theorem low_of_other_half {q r : Reg} (hsame : q &&& 3 = r &&& 3) (hne : q ≠ r) (hr : ¬ r.toNat < 4) : q.toNat < 4 := by
  revert q r
  decide

/-! Reading: which byte of which 16-bit register. -/

theorem State.reg8_of_low (s : State) {r : Reg} (h : r.toNat < 4) : s.reg8 r = lowByte (s.reg (r &&& 3)) := by
  rw [State.reg8, if_pos h, and_three_of_low h]

theorem State.reg8_of_high (s : State) {r : Reg} (h : ¬ r.toNat < 4) : s.reg8 r = highByte (s.reg (r &&& 3)) := by
  rw [State.reg8, if_neg h, sub_four_of_high h]

/-! Writing: a write of the 16-bit register, with its other byte kept. -/

theorem State.setReg8_of_low (s : State) {r : Reg} (v : Byte) (h : r.toNat < 4) :
    s.setReg8 r v = s.setReg (r &&& 3) (concatBytes (highByte (s.reg (r &&& 3))) v) := by
  rw [State.setReg8, if_pos h, and_three_of_low h]

theorem State.setReg8_of_high (s : State) {r : Reg} (v : Byte) (h : ¬ r.toNat < 4) :
    s.setReg8 r v = s.setReg (r &&& 3) (concatBytes v (lowByte (s.reg (r &&& 3)))) := by
  rw [State.setReg8, if_neg h, sub_four_of_high h]

/-! Reading after writing. -/

/-- A 16-bit register is unchanged when an 8-bit register that is no half of it is written. -/
theorem State.setReg8_reg_ne (s : State) {r q : Reg} (v : Byte) (h : q ≠ r &&& 3) : (s.setReg8 r v).reg q = s.reg q := by
  by_cases hr : r.toNat < 4
  · rw [s.setReg8_of_low v hr, s.setReg_reg_ne _ h]
  · rw [s.setReg8_of_high v hr, s.setReg_reg_ne _ h]

/-- An 8-bit register reads what was written to it. -/
@[simp] theorem State.setReg8_reg8 (s : State) (r : Reg) (v : Byte) : (s.setReg8 r v).reg8 r = v := by
  by_cases hr : r.toNat < 4
  · rw [State.reg8_of_low _ hr, s.setReg8_of_low v hr, State.setReg_reg, low_concat]
  · rw [State.reg8_of_high _ hr, s.setReg8_of_high v hr, State.setReg_reg, high_concat]

/-- The other half of the 16-bit register is unchanged. -/
theorem State.setReg8_reg8_other_half (s : State) {r q : Reg} (v : Byte) (hsame : q &&& 3 = r &&& 3) (hne : q ≠ r) :
    (s.setReg8 r v).reg8 q = s.reg8 q := by
  by_cases hr : r.toNat < 4
  · have hq := high_of_other_half hsame hne hr
    rw [State.reg8_of_high _ hq, s.reg8_of_high hq, s.setReg8_of_low v hr, hsame, State.setReg_reg, high_concat]
  · have hq := low_of_other_half hsame hne hr
    rw [State.reg8_of_low _ hq, s.reg8_of_low hq, s.setReg8_of_high v hr, hsame, State.setReg_reg, low_concat]

/-- A half of another 16-bit register is unchanged. -/
theorem State.setReg8_reg8_other_word (s : State) {r q : Reg} (v : Byte) (h : q &&& 3 ≠ r &&& 3) :
    (s.setReg8 r v).reg8 q = s.reg8 q := by
  by_cases hq : q.toNat < 4
  · rw [State.reg8_of_low _ hq, s.reg8_of_low hq, s.setReg8_reg_ne v h]
  · rw [State.reg8_of_high _ hq, s.reg8_of_high hq, s.setReg8_reg_ne v h]

/-- Every other 8-bit register is unchanged. -/
theorem State.setReg8_reg8_ne (s : State) {r q : Reg} (v : Byte) (h : q ≠ r) : (s.setReg8 r v).reg8 q = s.reg8 q := by
  by_cases hsame : q &&& 3 = r &&& 3
  · exact s.setReg8_reg8_other_half v hsame h
  · exact s.setReg8_reg8_other_word v hsame

/-- Settles O12, from the read-after-write rule of an 8-bit register and its two frame rules. -/
theorem registerHalves : Obligations.RegisterHalves := by
  intro s r v
  refine ⟨fun q => ?_, fun q h => s.setReg8_reg_ne v h⟩
  split
  case isTrue h => rw [h, s.setReg8_reg8]
  case isFalse h => exact s.setReg8_reg8_ne v h

end Sys2Proof.Machine

/-! What a step runs (10_state.md R25, 43_string.md R320), and the state after reset. -/

namespace Sys2Proof.Machine

/-- Settles O2: after reset no memory is written, IOPL and NT are 0, and every segment is as RESET leaves it. -/
theorem resetInvariant : Obligations.ResetInvariant := by
  have hdata : SegReg.reset.isReal := ⟨rfl, rfl, by decide⟩
  have hcode : State.reset.cs.isReal := ⟨rfl, rfl, by decide⟩
  exact ⟨State.reset_wf, fun _ => ⟨rfl, rfl, hdata, hcode, hdata, hdata⟩⟩

/-! Which branch of the step is taken. -/

theorem step_reset {s : State} (h : s.pins.reset = true) : step s = .next s.resetByPin := by
  rw [step, if_pos h]

/-- At the start of an instruction with no event the program goes on. -/
theorem State.GoesOn.step_eq_advance {s : State} (h : s.GoesOn) (hp : s.pfx.len = 0) : step s = advance s := by
  obtain ⟨hevent, hhalted, hshutdown⟩ := h.2 hp
  simp [step, h.1, hp, hevent, hhalted, hshutdown]

theorem State.Fetches.step_eq_runInstruction {s : State} (h : s.Fetches) : step s = runInstruction s := by
  by_cases hp : s.pfx.len = 0
  · rw [h.1.step_eq_advance hp, advance, h.2 hp]
  · simp [step, h.1.1, hp]

/-! What the bytes at CS:IP come to. -/

theorem runInstruction_ok {s : State} {i : Instr} {rest : List Byte} (h : decode s.window = .ok i rest) :
    runInstruction s = exec i (s.fetched (s.window.length - rest.length)) := by
  simp only [runInstruction, fetch, h]

theorem runInstruction_badBase {s : State} (h : decode s.window = .badBase) :
    runInstruction s = .refused .adjustBase := by
  simp only [runInstruction, fetch, h]

/-- The bytes end before the instruction: it is too long, or the segment ends. -/
theorem runInstruction_needMore {s : State} (h : decode s.window = .needMore) :
    runInstruction s =
      if s.window.length = Config.maxInsnLen - s.pfx.len then .refused .tooLong
      else takeException 13 (some 0) (s.fetched 0) := by
  simp only [runInstruction, fetch, h]
  by_cases hlen : s.window.length = Config.maxInsnLen - s.pfx.len
  · simp only [if_pos hlen]
  · simp only [if_neg hlen]

/-- Settles O7: the three ways the program goes on, each one branch of the step. -/
theorem stepRunsDecoded : Obligations.StepRunsDecoded := by
  refine ⟨fun s i rest hf hd => ?_, fun s hf hd hlen => ?_, fun s r hg hp hr => ?_⟩
  · rw [hf.step_eq_runInstruction, runInstruction_ok hd]
    exact ⟨rfl, rfl, rfl, rfl, rfl, rfl⟩
  · rw [hf.step_eq_runInstruction, runInstruction_needMore hd, if_neg (by omega)]
    exact ⟨rfl, BitVec.add_zero s.ip, rfl, rfl, rfl⟩
  · rw [hg.step_eq_advance hp, advance, hr]
    rfl

end Sys2Proof.Machine

/-! What every step keeps (10_state.md R29, R35, 20_memory.md R82, 00_scope.md R8): the relation between a state and a
later one, the updates that have it, and the effects built from them. -/

namespace Sys2Proof.Machine

/-! The relation. -/

/-- What no step but RESET undoes: the board, the canonical memory, protected mode, and the form of real mode. -/
structure State.Kept (s t : State) : Prop where
  board : t.board = s.board
  mem : Memory.wf s.mem = true → Memory.wf t.mem = true
  pe : s.msw.pe = true → t.msw.pe = true
  form : s.RealModeForm → t.RealModeForm

/-- The flags the form of real mode names are as before. -/
structure Flags.SameSystem (f g : Flags) : Prop where
  iopl : g.iopl = f.iopl
  nt : g.nt = f.nt

theorem Flags.SameSystem.refl (f : Flags) : f.SameSystem f := ⟨rfl, rfl⟩

namespace State.Kept

theorem refl (s : State) : s.Kept s := ⟨rfl, id, id, id⟩

theorem ite {s t u : State} {p : Prop} [Decidable p] (ht : s.Kept t) (hu : s.Kept u) : s.Kept (if p then t else u) := by
  split
  · exact ht
  · exact hu

theorem trans {s t u : State} (h : s.Kept t) (k : t.Kept u) : s.Kept u :=
  ⟨k.board.trans h.board, k.mem ∘ h.mem, k.pe ∘ h.pe, k.form ∘ h.form⟩

theorem inv {s t : State} (h : s.Kept t) (hs : s.Inv) : t.Inv := ⟨h.mem hs.1, h.form hs.2⟩

/-- An update of other fields. -/
theorem of_same {s t : State} (h : (t.board, t.msw, t.flags, t.es, t.cs, t.ss, t.ds, t.mem) =
    (s.board, s.msw, s.flags, s.es, s.cs, s.ss, s.ds, s.mem)) : s.Kept t := by
  simp only [Prod.mk.injEq] at h
  obtain ⟨hboard, hmsw, hflags, hes, hcs, hss, hds, hmem⟩ := h
  refine ⟨hboard, fun hm => hmem ▸ hm, fun hpe => hmsw ▸ hpe, fun hform => ?_⟩
  simpa only [RealModeForm, hmsw, hflags, hes, hcs, hss, hds] using hform

/-- An update that keeps the canonical memory and the mode, the segment registers and the system flags. -/
theorem of_frame {s t : State} (mem : Memory.wf s.mem = true → Memory.wf t.mem = true)
    (frame : t.board = s.board ∧ t.msw.pe = s.msw.pe ∧ t.es = s.es ∧ t.cs = s.cs ∧ t.ss = s.ss ∧ t.ds = s.ds := by
      simp)
    (flags : s.flags.SameSystem t.flags := by exact ⟨by simp, by simp⟩) : s.Kept t := by
  obtain ⟨hboard, hpe, hes, hcs, hss, hds⟩ := frame
  refine ⟨hboard, mem, fun h => hpe.trans h, fun h => ?_⟩
  simpa only [RealModeForm, hpe, hes, hcs, hss, hds, flags.iopl, flags.nt] using h

/-- The form of real mode binds nothing in protected mode. -/
theorem of_protected {s t : State} (hs : s.msw.pe = true) (mem : Memory.wf s.mem = true → Memory.wf t.mem = true)
    (frame : t.board = s.board ∧ t.msw.pe = s.msw.pe := by simp) : s.Kept t :=
  ⟨frame.1, mem, fun h => frame.2.trans h, fun _ h => by rw [frame.2, hs] at h; cases h⟩

end State.Kept

/-! Updates of registers, memory and the record of the machine. -/

namespace State

theorem kept_setReg (s : State) (r : Reg) (v : Word) : s.Kept (s.setReg r v) := .of_same rfl

theorem kept_putReg (s : State) (w : Width) (r : Reg) (v : BitVec w.bits) : s.Kept (s.putReg w r v) :=
  .of_frame (putReg_wf · w r v)

theorem kept_setReg8 (s : State) (r : Reg) (v : Byte) : s.Kept (s.setReg8 r v) := s.kept_putReg .byte r v

theorem kept_store (s : State) (r : SReg) (off : Word) (w : Width) (v : BitVec w.bits) : s.Kept (s.store r off w v) :=
  .of_frame (store_wf · r off w v)

theorem kept_writeFrame (s : State) (g : SegReg) (sp : Word) (words : List Word) : s.Kept (s.writeFrame g sp words) :=
  .of_frame (writeFrame_wf · g sp words)

theorem kept_setRm (s : State) (rm : Rm) (w : Width) (v : BitVec w.bits) : s.Kept (s.setRm rm w v) :=
  .of_frame (setRm_wf · rm w v)

theorem kept_setAccessed (s : State) (d : Descriptor) : s.Kept (s.setAccessed d) := .of_frame (setAccessed_wf · d)

theorem kept_setSystemType (s : State) (a : Addr) (type : Byte) : s.Kept (s.setSystemType a type) :=
  .of_frame (setSystemType_wf · a type) (by simp [setSystemType]) ⟨rfl, rfl⟩

theorem kept_flush (s : State) : s.Kept s.flush := .of_same rfl

theorem kept_transfer (s : State) (target : Word) : s.Kept (s.transfer target) := .of_same rfl

theorem kept_endInstruction (s : State) : s.Kept s.endInstruction := .of_same rfl

theorem kept_free (s : State) (n : Nat) : s.Kept { s with free := n } := .of_same rfl

theorem kept_ioWrite (s : State) (port : Word) (w : Width) (v : BitVec w.bits) : s.Kept (s.ioWrite port w v) :=
  .of_same rfl

theorem kept_trap (s : State) (b : Bool) : s.Kept { s with trap := b } := .of_same rfl

theorem kept_freeFrame (s : State) (t : Word) (n count : Nat) : s.Kept (s.freeFrame t n count) := by
  induction count generalizing s t n with
  | zero => exact .refl s
  | succ k ih => exact (s.kept_store .ss t .word _).trans (ih _ _ _)

theorem kept_wrapStack (s : State) (count : Nat) : s.Kept (s.wrapStack count) :=
  ((s.kept_free _).trans (kept_freeFrame _ _ _ _)).trans (kept_setReg _ SP _)

theorem kept_freeStackWord (s : State) (t : Word) (n : Nat) : s.Kept (s.freeStackWord t n) :=
  (s.kept_store .ss t .byte _).trans (kept_store _ .ss (t + 1) .byte _)

theorem kept_freeStackWords (s : State) (t : Word) (n count : Nat) : s.Kept (s.freeStackWords t n count) := by
  induction count generalizing s t n with
  | zero => exact .refl s
  | succ k ih => exact (s.kept_freeStackWord t n).trans (ih _ _ _)

theorem kept_popSlots (s : State) (sp : Word) (count : Nat) : s.Kept (s.popSlots sp count) := by
  induction count with
  | zero => exact .refl s
  | succ k ih =>
    unfold popSlots
    split
    · exact ih
    · exact ih.trans (kept_setReg _ _ _)

theorem kept_freeSlots (s : State) (n count : Nat) : s.Kept (s.freeSlots n count) := by
  induction count with
  | zero => exact .refl s
  | succ k ih =>
    unfold freeSlots
    split
    · exact ih
    · exact ih.trans (kept_setReg _ _ _)

theorem kept_storeTable (s : State) (m : MemOp) (t : TableReg) (n : Nat) : s.Kept (s.storeTable m t n) :=
  .of_frame (storeTable_wf · m t n) (by simp [storeTable]) ⟨by simp [storeTable], by simp [storeTable]⟩

theorem kept_enterShutdown (s : State) : s.Kept s.enterShutdown := .of_same rfl

theorem kept_finishSwitch (s : State) : s.Kept s.finishSwitch :=
  .of_frame id ⟨rfl, rfl, rfl, rfl, rfl, rfl⟩ (.refl _)

theorem kept_noneDecoded (s : State) : s.Kept s.noneDecoded := .of_same rfl

theorem kept_nextIteration (s : State) (i : Instr) : s.Kept (s.nextIteration i) :=
  .of_same rfl

theorem kept_escape (s : State) (ttt lll : BitVec 3) (rm : Rm) : s.Kept (s.escape ttt lll rm) := by
  cases rm <;> exact .of_same rfl

/-! Updates of flags, segment registers and MSW. -/

theorem kept_flags (s : State) {f : Flags} (h : s.flags.SameSystem f) : s.Kept { s with flags := f } :=
  .of_frame id (by simp) h

/-- A result in one register, with flags. -/
theorem kept_setRegFlags (s : State) (r : Reg) (v : Word) {f : Flags} (h : s.flags.SameSystem f) :
    s.Kept { s.setReg r v with flags := f } := .of_frame id (by simp) h

/-- A result in two registers, with flags. -/
theorem kept_setRegsFlags (s : State) (r q : Reg) (v u : Word) {f : Flags} (h : s.flags.SameSystem f) :
    s.Kept { (s.setReg r v).setReg q u with flags := f } := .of_frame id (by simp) h

/-- IOPL and NT stay 0 in real mode (40_data_transfer.md R236, 44_control_transfer.md R371). -/
theorem kept_loadFlags (s : State) (v : Word) : s.Kept { s with flags := s.loadFlags v } := by
  refine ⟨rfl, id, id, fun h hpe => ?_⟩
  obtain ⟨-, -, hsegs⟩ := h hpe
  have hreal : s.loadFlags v = Flags.loadReal v := if_neg (by simpa using hpe)
  rw [hreal]
  exact ⟨rfl, rfl, hsegs⟩

end State

/-- A real-mode load leaves 64K bytes below the code segment of RESET (20_memory.md R82). -/
theorem realSegReg_isReal (sel : Word) : (realSegReg sel).isReal := by
  refine ⟨rfl, rfl, ?_⟩
  simp only [realSegReg]
  bv_omega

theorem State.kept_setSeg_real (s : State) (r : SReg) (sel : Word) : s.Kept (s.setSeg r (realSegReg sel)) := by
  refine ⟨by simp, by simp, by simp, fun h hpe => ?_⟩
  obtain ⟨hiopl, hnt, hes, hcs, hss, hds⟩ := h (by simpa using hpe)
  have hreal := realSegReg_isReal sel
  cases r
  · exact ⟨hiopl, hnt, hreal, hcs, hss, hds⟩
  · exact ⟨hiopl, hnt, hes, hreal, hss, hds⟩
  · exact ⟨hiopl, hnt, hes, hcs, hreal, hds⟩
  · exact ⟨hiopl, hnt, hes, hcs, hss, hreal⟩

/-- A far transfer of real mode: CS by its selector, IP, and flags with the same IOPL and NT. -/
theorem State.kept_farTransfer (s : State) {f : Flags} (hf : s.flags.SameSystem f) (sel off : Word) :
    s.Kept (({ s with flags := f, cs := realSegReg sel } : State).transfer off) :=
  ((s.kept_flags hf).trans (kept_setSeg_real _ .cs sel)).trans (kept_transfer _ off)

/-- IRET in real mode loads FLAGS with IOPL and NT 0 (44_control_transfer.md R371). -/
theorem State.kept_returnReal (s : State) (off sel f : Word) :
    s.Kept { (({ s with cs := realSegReg sel } : State).transfer off).setReg SP (s.reg SP + 6) with
      flags := Flags.loadReal f, nmiInService := false } := by
  refine ⟨rfl, id, id, fun h hpe => ?_⟩
  obtain ⟨-, -, hes, -, hss, hds⟩ := h hpe
  exact ⟨rfl, rfl, hes, realSegReg_isReal sel, hss, hds⟩

/-- LMSW never clears PE (47_protection_control.md R448). -/
theorem State.kept_loadMsw (s : State) (v : Word) (q : Option RealQueue) :
    s.Kept { s with msw := s.msw.load v, realQueue := q } := by
  refine ⟨rfl, id, fun h => by simp [Msw.load, h], fun h hpe => h ?_⟩
  simp only [Msw.load, Bool.or_eq_false_iff] at hpe
  exact hpe.1

theorem State.kept_loadFrom {s : State} (hs : s.msw.pe = true) (r : SReg) (sel : Word) (d : Descriptor) :
    s.Kept (s.loadFrom r sel d) := .of_protected hs (loadFrom_wf · r sel d) (by simp [loadFrom])

@[simp] theorem State.writeWords_board (s : State) (a : Addr) (words : List Word) :
    (s.writeWords a words).board = s.board := by
  induction words generalizing s a with
  | nil => rfl
  | cons v rest ih => exact ih (s.writeWord a v) (a + 2)

@[simp] theorem State.writeWords_msw (s : State) (a : Addr) (words : List Word) :
    (s.writeWords a words).msw = s.msw := by
  induction words generalizing s a with
  | nil => rfl
  | cons v rest ih => exact ih (s.writeWord a v) (a + 2)

/-- The task switch saves and loads in protected mode (45_protected_transfer.md R412 to R414). -/
theorem State.kept_installTask {s : State} (hs : s.msw.pe = true) (k : SwitchKind) (rip tsel : Word) (t : Descriptor) :
    s.Kept (((s.saveTask k rip).linkTasks k t).installTask k tsel t) := by
  refine .of_protected hs (fun h => linkTasks_wf (saveTask_wf h k rip) k t) ?_
  cases k <;> simp [installTask, linkTasks, setSystemType, saveTask]

/-! Effects. -/

/-- The state an effect ends in, also where it stops early. -/
def endState {α : Type} (r : EStateM.Result Stop State α) : State :=
  match r with
  | .ok _ t => t
  | .error _ t => t

/-- The modes a claim about an effect is for: both, or protected mode only. -/
inductive Modes where
  | all
  | protectedOnly

/-- Whether a state is in one of the modes. -/
def Modes.Has (c : Modes) (s : State) : Prop :=
  match c with
  | .all => True
  | .protectedOnly => s.msw.pe = true

theorem Modes.Has.of_kept {c : Modes} {s t : State} (hs : c.Has s) (h : s.Kept t) : c.Has t := by
  cases c
  · trivial
  · exact h.pe hs

/-- An effect keeps what no step but RESET undoes, from every state in one of the modes. -/
def Keeps {α : Type} (c : Modes) (m : M α) : Prop := ∀ s, c.Has s → s.Kept (endState (m s))

section
variable {α β : Type} {c : Modes}

namespace Keeps

theorem ok {m : M α} (h : Keeps c m) {s t : State} {a : α} (hs : c.Has s) (ht : m s = .ok a t) : s.Kept t := by
  simpa [ht, endState] using h s hs

theorem error {m : M α} (h : Keeps c m) {s t : State} {e : Stop} (hs : c.Has s) (ht : m s = .error e t) :
    s.Kept t := by
  simpa [ht, endState] using h s hs

theorem bind {m : M α} {f : α → M β} (hm : Keeps c m) (hf : ∀ a, Keeps c (f a)) : Keeps c (m >>= f) := by
  intro s hs
  rw [bind_apply]
  cases h : m s with
  | ok a t => exact (hm.ok hs h).trans (hf a t (hs.of_kept (hm.ok hs h)))
  | error e t => exact hm.error hs h

theorem pure (a : α) : Keeps c (pure a : M α) := fun s _ => .refl s

theorem look (f : State → α) : Keeps c (look f) := fun s _ => .refl s

theorem stop (e : Stop) : Keeps c (stop e : M α) := fun s _ => .refl s

theorem draw (k : Nat) : Keeps c (draw k) := fun s _ => s.kept_free _

theorem updateProtected {g : State → State} (h : ∀ s : State, s.msw.pe = true → s.Kept (g s)) :
    Keeps .protectedOnly (update g) := h

theorem update {g : State → State} (h : ∀ s : State, s.Kept (g s)) : Keeps c (update g) := fun s _ => h s

theorem require (p : State → Bool) (e : Stop) : Keeps c (require p e) := by
  intro s _
  unfold Machine.require
  split <;> exact .refl s

theorem check (p : State → Option Stop) : Keeps c (check p) := by
  intro s _
  unfold Machine.check
  split <;> exact .refl s

theorem ite {p : Prop} [Decidable p] {m n : M α} (hm : Keeps c m) (hn : Keeps c n) : Keeps c (if p then m else n) := by
  split
  · exact hm
  · exact hn

/-- A test first: what follows may rely on nothing of it. -/
theorem requireThen {p : State → Bool} {e : Stop} {m : M α} (h : Keeps c m) :
    Keeps c (Machine.require p e >>= fun _ => m) :=
  bind (require p e) fun _ => h

theorem checkThen {p : State → Option Stop} {m : M α} (h : Keeps c m) : Keeps c (Machine.check p >>= fun _ => m) :=
  bind (check p) fun _ => h

theorem lookThen {g : State → α} {f : α → M β} (h : ∀ a, Keeps c (f a)) : Keeps c (Machine.look g >>= f) :=
  bind (look g) h

theorem drawThen {k : Nat} {f : Nat → M β} (h : ∀ n, Keeps c (f n)) : Keeps c (Machine.draw k >>= f) :=
  bind (draw k) h

/-- An effect that differs by mode: each part need keep only in its own. -/
theorem byMode {f : Bool → M α} (hreal : Keeps .all (f false)) (hprot : Keeps .protectedOnly (f true)) :
    Keeps .all (Machine.look (fun s => s.msw.pe) >>= f) := by
  intro s hs
  rw [look_bind]
  cases hpe : s.msw.pe
  · exact hreal s hs
  · exact hprot s hpe

/-! The named operations (20_memory.md). -/

theorem segRead (r : SReg) (off : Word) (w : Width) : Keeps c (segRead r off w) := .checkThen (.look _)

theorem segWrite (r : SReg) (off : Word) (w : Width) (v : BitVec w.bits) : Keeps c (segWrite r off w v) :=
  .checkThen (.update fun s => s.kept_store r off w v)

theorem readRm (rm : Rm) (w : Width) : Keeps c (readRm rm w) := .checkThen (.look _)

theorem writeRm (rm : Rm) (w : Width) (v : BitVec w.bits) : Keeps c (writeRm rm w v) :=
  .checkThen (.update fun s => s.kept_setRm rm w v)

theorem readPointer (m : MemOp) : Keeps c (readPointer m) := .checkThen (.look _)

theorem readDescriptorAt (a : Addr) : Keeps c (readDescriptorAt a) := .requireThen (.look _)

theorem readDescriptor (sel : Word) (miss : Stop) : Keeps c (readDescriptor sel miss) := by
  refine .lookThen fun a => ?_
  cases a with
  | none => exact .stop miss
  | some a => exact .readDescriptorAt a

theorem readPhysical (a : Addr) : Keeps c (readPhysical a) := .requireThen (.look _)

theorem push16 (v : Word) : Keeps c (push16 v) :=
  .checkThen (.update fun s => (s.kept_store .ss _ .word v).trans (State.kept_setReg _ SP _))

theorem readTop (f : State → Word) : Keeps c (do Machine.segRead .ss (← Machine.look f) .word) :=
  .lookThen fun a => .segRead .ss a .word

theorem pop16 : Keeps c pop16 :=
  .bind (.readTop _) fun v => .bind (.update fun s => s.kept_setReg SP _) fun _ => .pure v

theorem requireStack (count : Nat) : Keeps c (requireStack count) := by
  intro s _
  unfold Machine.requireStack
  split
  · exact s.kept_wrapStack count
  · exact .refl s

theorem ioRead (port : Word) (w : Width) : Keeps c (ioRead port w) :=
  .drawThen fun n => .bind (.update fun _ => .of_same rfl) fun _ => .pure (portValue port w n)

theorem loadDataSeg (r : SReg) (sel : Word) : Keeps .protectedOnly (loadDataSeg r sel) :=
  .ite (.updateProtected fun _ hs => .of_protected hs (by simp))
    (.bind (.readDescriptor sel _) fun d => .requireThen <| .requireThen <| .requireThen <|
      .updateProtected fun _ hs => State.kept_loadFrom hs r sel d)

theorem loadStackSeg (sel : Word) : Keeps .protectedOnly (loadStackSeg sel) :=
  .requireThen <| .bind (.readDescriptor sel _) fun d => .requireThen <| .requireThen <| .requireThen <| .requireThen <|
    .updateProtected fun _ hs => State.kept_loadFrom hs .ss sel d

theorem loadSeg (r : SReg) (sel : Word) : Keeps .all (loadSeg r sel) :=
  .byMode (.update fun s => s.kept_setSeg_real r sel) (.ite (p := r = .ss) (.loadStackSeg sel) (.loadDataSeg r sel))

/-! Tasks, and entry into a code segment (45_protected_transfer.md). -/

theorem taskLdt (sel : Word) : Keeps c (taskLdt sel) :=
  .ite (.pure ()) <| .requireThen <| .bind (.readDescriptor sel _) fun _ => .requireThen <| .requireThen <|
    .update fun _ => .of_same rfl

theorem taskCs (sel : Word) : Keeps .protectedOnly (taskCs sel) :=
  .requireThen <| .bind (.readDescriptor sel _) fun d => .requireThen <| .requireThen <| .requireThen <|
    .updateProtected fun _ hs => State.kept_loadFrom hs .cs sel d

theorem taskSs (sel : Word) : Keeps .protectedOnly (taskSs sel) :=
  .requireThen <| .bind (.readDescriptor sel _) fun d => .requireThen <| .requireThen <|
    .updateProtected fun _ hs => State.kept_loadFrom hs .ss sel d

theorem taskData (r : SReg) (sel : Word) : Keeps .protectedOnly (taskData r sel) :=
  .ite (.pure ()) <| .bind (.readDescriptor sel _) fun d => .requireThen <| .requireThen <|
    .updateProtected fun _ hs => State.kept_loadFrom hs r sel d

theorem validateTask : Keeps .protectedOnly validateTask :=
  .lookThen fun ldt => .bind (.taskLdt ldt) fun _ => .lookThen fun cs => .bind (.taskCs cs) fun _ =>
  .lookThen fun ss => .bind (.taskSs ss) fun _ => .lookThen fun ds => .bind (.taskData .ds ds) fun _ =>
  .lookThen fun es => .bind (.taskData .es es) fun _ => .require _ _

theorem taskSwitch (k : SwitchKind) (tsel : Word) (t : Descriptor) (rip : Word) :
    Keeps .protectedOnly (taskSwitch k tsel t rip) :=
  .requireThen <| .requireThen <| .requireThen <|
  .bind (.updateProtected fun _ hs => State.kept_installTask hs k rip tsel t) fun _ =>
  .bind .validateTask fun _ => .update fun s => s.kept_finishSwitch

theorem taskGateTarget (g : Descriptor) : Keeps c (taskGateTarget g) :=
  .requireThen <| .bind (.readDescriptor _ _) fun t => .requireThen (.pure t)

theorem innerStack (n : Nat) : Keeps c (innerStack n) :=
  .checkThen <| .bind (.lookThen fun _ => .readPhysical _) fun nsp =>
  .bind (.lookThen fun _ => .readPhysical _) fun nss =>
  .requireThen <| .bind (.readDescriptor nss _) fun d => .requireThen <| .requireThen <| .requireThen <|
  .pure (nsp, d.toSegReg nss, d)

theorem enterInner (d : Descriptor) (csel eoff : Word) {words : M (List Word)} (h : Keeps .protectedOnly words) :
    Keeps .protectedOnly (enterInner d csel eoff words) :=
  .bind (.innerStack _) fun p => .bind h fun ws => .checkThen <| .requireThen <|
  .updateProtected fun s hs => .of_protected hs
    (fun hm => State.loadFrom_wf (by simpa using State.setAccessed_wf (State.writeFrame_wf hm _ _ _) _) _ _ _)
    (by simp [State.loadFrom])

theorem enterSame (d : Descriptor) (csel eoff : Word) (words : List Word) :
    Keeps .protectedOnly (enterSame d csel eoff words) :=
  .checkThen <| .requireThen <| .updateProtected fun s hs => .of_protected hs
    (fun hm => State.loadFrom_wf (State.setReg_wf (State.writeFrame_wf hm s.ss (s.reg SP) words) SP _) .cs
      (withRpl csel s.cpl) d)
    (by simp [State.loadFrom])

/-! Interrupt entry and return (60_exceptions.md). -/

theorem enterVector (v : Byte) (rip : Word) : Keeps c (enterVector v rip) := by
  refine .bind (.requireStack 3) fun _ => .requireThen <| .update fun s => ?_
  have hpushed := (s.kept_writeFrame s.ss (s.reg SP) [s.flags.image, s.cs.sel, rip]).trans
    (State.kept_setReg _ SP (s.reg SP - 6))
  exact hpushed.trans (State.kept_farTransfer _ ⟨by simp [Flags.enterReal], by simp [Flags.enterReal]⟩ _ _)

theorem enterReal (v : Byte) (rip : Word) : Keeps c (enterReal v rip) :=
  .lookThen fun _ => .ite (.enterVector v rip) <| .ite (.stop .shutdown) <|
  .bind (.update fun s => s.kept_trap false) fun _ => .lookThen fun ip => .enterVector 8 ip

theorem enterGate (g : Descriptor) (rip : Word) (err : Option Word) : Keeps .protectedOnly (enterGate g rip err) := by
  refine .requireThen <| .bind (.readDescriptor _ _) fun d => .requireThen <| .requireThen <| .lookThen fun words =>
    .lookThen fun _ => ?_
  have hflags : Keeps .protectedOnly
      (Machine.update fun s => { s with flags := s.flags.enterGate (g.systemType == some 7) }) :=
    .updateProtected fun s hs => .of_protected hs id
  exact .ite (.bind (.enterSame d _ _ words) fun _ => hflags)
    (.bind (.enterInner d _ _ (.pure words)) fun _ => hflags)

theorem enterTaskGate (g : Descriptor) (rip : Word) (err : Option Word) :
    Keeps .protectedOnly (enterTaskGate g rip err) := by
  refine .bind (.taskGateTarget g) fun t => .bind (.taskSwitch .int _ t rip) fun _ => ?_
  cases err with
  | none => exact .pure ()
  | some e => exact .bind (.push16 e) fun _ => .update State.kept_flush

theorem enterProt (v : Byte) (rip : Word) (soft : Bool) (err : Option Word) :
    Keeps .protectedOnly (enterProt v rip soft err) :=
  .requireThen <| .bind (.lookThen fun _ => .readDescriptorAt _) fun g =>
  .requireThen <| .requireThen <| .requireThen <|
  .ite (.enterTaskGate g rip err) (.enterGate g rip err)

theorem enter (v : Byte) (rip : Word) (soft : Bool) (err : Option Word) : Keeps .all (enter v rip soft err) :=
  .byMode (.enterReal v rip) (.enterProt v rip soft err)

theorem returnTarget (csel off : Word) : Keeps c (returnTarget csel off) :=
  .requireThen <| .requireThen <| .bind (.readDescriptor csel _) fun d =>
  .requireThen <| .requireThen <| .requireThen <| .requireThen (.pure d)

theorem outerStack (nss : Word) (n : Nat) : Keeps c (outerStack nss n) :=
  .requireThen <| .bind (.readDescriptor nss _) fun d => .requireThen <| .requireThen <| .requireThen (.pure d)

theorem returnWithinTask (csel off size imm : Word) : Keeps .protectedOnly (returnWithinTask csel off size imm) := by
  refine .bind (.returnTarget csel off) fun d => .lookThen fun same => .ite ?_ ?_
  · exact .updateProtected fun s hs => .of_protected hs (State.loadFrom_wf · .cs csel d) (by simp [State.loadFrom])
  · refine .bind (.readTop _) fun nsp => .bind (.readTop _) fun nss => .bind (.outerStack nss _) fun d' => ?_
    exact .updateProtected fun s hs => .of_protected hs
      (fun hm => State.loadFrom_wf (State.loadFrom_wf hm .cs csel d) .ss nss d') (by simp [State.loadFrom])

theorem returnReal : Keeps .all returnReal :=
  .bind (.readTop _) fun off => .bind (.readTop _) fun sel => .bind (.readTop _) fun f =>
    .update fun s => s.kept_returnReal off sel f

theorem returnToTask : Keeps .protectedOnly returnToTask :=
  .bind (.lookThen fun _ => .readPhysical _) fun bsel => .requireThen <| .bind (.readDescriptor bsel _) fun t =>
  .requireThen <| .requireThen <| .lookThen fun ip => .taskSwitch .iret bsel t ip

theorem returnProtected : Keeps .protectedOnly returnProtected :=
  .bind (.readTop _) fun off => .bind (.readTop _) fun csel => .bind (.readTop _) fun _ => .lookThen fun _ =>
  .bind (.returnWithinTask csel off 6 0) fun _ => .updateProtected fun _ hs => .of_protected hs id

theorem returnFromInterrupt : Keeps .all returnFromInterrupt :=
  .byMode (.lookThen fun _ => .returnReal)
    (.lookThen fun nt => .ite (p := nt = true) .returnToTask .returnProtected)

end Keeps
end

/-! Outcomes. -/

/-- A next state keeps what no step but RESET undoes. -/
def State.KeptBy (s : State) (o : Host.Outcome State Fault Refusal) : Prop := ∀ t, o = .next t → s.Kept t

namespace State.KeptBy

theorem next {s t : State} (h : s.Kept t) : s.KeptBy (.next t) := by
  rintro _ ⟨⟩
  exact h

theorem fault (s : State) (f : Fault) : s.KeptBy (.fault f) := by
  rintro _ ⟨⟩

theorem refused (s : State) (r : Refusal) : s.KeptBy (.refused r) := by
  rintro _ ⟨⟩

/-- What an earlier state kept. -/
theorem of_kept {s t : State} {o : Host.Outcome State Fault Refusal} (h : s.Kept t) (ho : t.KeptBy o) : s.KeptBy o :=
  fun u hu => h.trans (ho u hu)

theorem ite {p : Prop} [Decidable p] {s : State} {a b : Host.Outcome State Fault Refusal} (ha : s.KeptBy a)
    (hb : s.KeptBy b) : s.KeptBy (if p then a else b) := by
  split
  · exact ha
  · exact hb

end State.KeptBy

/-! Delivery (60_exceptions.md R502, R536, R545). -/

theorem State.keptBy_doubleFault (s : State) : s.KeptBy (doubleFault s) := by
  have henter := Keeps.enter 8 s.curIp false (some 0)
  unfold doubleFault
  cases h : enter 8 s.curIp false (some 0) s with
  | ok _ t => exact .next (henter.ok trivial h)
  | error e t =>
    have hend := henter.error trivial h
    cases e with
    | exc v err => exact .next (hend.trans t.kept_enterShutdown)
    | shutdown => exact .next (hend.trans t.kept_enterShutdown)
    | fault f => exact .fault s f
    | refused r => exact .refused s r

theorem State.keptBy_takeException (s : State) (v : Byte) (err : Option Word) : s.KeptBy (takeException v err s) := by
  have henter := Keeps.enter v s.curIp false err
  unfold takeException
  cases h : enter v s.curIp false err s.endInstruction with
  | ok _ t => exact .next ((s.kept_endInstruction.trans (henter.ok trivial h)).trans (t.kept_trap false))
  | error e t =>
    have hend := s.kept_endInstruction.trans (henter.error trivial h)
    cases e with
    | exc w err => exact .of_kept (hend.trans (t.kept_trap false)) (keptBy_doubleFault _)
    | shutdown => exact .next (hend.trans t.kept_enterShutdown)
    | fault f => exact .fault s f
    | refused r => exact .refused s r

theorem State.keptBy_takeInterrupt (s : State) (v : Byte) (rip : Word) (external : Bool) :
    s.KeptBy (takeInterrupt v rip external s) := by
  have henter := Keeps.enter v rip false none
  unfold takeInterrupt
  cases h : enter v rip false none s.endInstruction with
  | ok _ t => exact .next ((s.kept_endInstruction.trans (henter.ok trivial h)).trans (.of_same rfl))
  | error e t =>
    have hend := s.kept_endInstruction.trans (henter.error trivial h)
    cases e with
    | exc w err =>
      have hwake : t.Kept { t with halted := false, shutdown := false } := .of_same rfl
      exact .of_kept (hend.trans hwake) (keptBy_takeException _ w _)
    | shutdown => exact .next (hend.trans t.kept_enterShutdown)
    | fault f => exact .fault s f
    | refused r => exact .refused s r

theorem State.Kept.settle {s : State} {r : EStateM.Result Stop State Unit} (h : s.Kept (endState r)) :
    s.KeptBy (settle r) := by
  cases r with
  | ok _ t => exact .next (h.trans t.kept_endInstruction)
  | error e t =>
    cases e with
    | exc v err => exact .of_kept h (.ite (t.keptBy_takeInterrupt 16 t.curIp true) (t.keptBy_takeException v err))
    | shutdown => exact .next (h.trans t.kept_enterShutdown)
    | fault f => exact .fault s f
    | refused r => exact .refused s r

/-! How an effect becomes a step. -/

namespace State.KeptBy

theorem performIn {c : Modes} {m : M Unit} {s : State} (h : Keeps c m) (hs : c.Has s) : s.KeptBy (perform m s) :=
  .ite (.ite (h s hs).settle (.refused s .repeatPrefix)) (Kept.refl s).settle

theorem perform {m : M Unit} {s : State} (h : Keeps .all m) : s.KeptBy (perform m s) := performIn h trivial

theorem performString {m : M Unit} {s : State} (h : Keeps .all m) : s.KeptBy (performString m s) :=
  .ite (h s trivial).settle (Kept.refl s).settle

theorem performProtected {m : M Unit} {s : State} (h : Keeps .protectedOnly m) : s.KeptBy (performProtected m s) := by
  cases hpe : s.msw.pe
  · rw [performProtected_real hpe]
    exact s.keptBy_takeException 6 none
  · cases hd : s.decodedReal
    · rw [performProtected_eq hpe hd]
      exact performIn h hpe
    · rw [performProtected_queued hpe hd]
      have hfree := s.kept_noneDecoded.trans (kept_free _ (s.free + 1))
      exact .ite (.of_kept (s.kept_free _) (keptBy_takeException _ 6 none))
        (.of_kept hfree (performIn h (Modes.Has.of_kept (c := .protectedOnly) hpe hfree)))

end State.KeptBy

section
variable {c : Modes}

namespace Keeps

/-! Control transfers (44_control_transfer.md, 45_protected_transfer.md). -/

theorem jumpTo (t : Word) : Keeps c (jumpTo t) := .requireThen (.update fun s => s.kept_transfer t)

theorem jumpIf (cond : State → Bool) (disp : Byte) : Keeps c (jumpIf cond disp) :=
  .lookThen fun _ => .lookThen fun t => .ite (.jumpTo t) (.pure ())

theorem callTo (t : Word) : Keeps c (callTo t) :=
  .requireThen <| .bind (.requireStack 1) fun _ => .lookThen fun ip => .bind (.push16 ip) fun _ =>
  .update fun s => s.kept_transfer t

theorem checkCodeDirect (d : Descriptor) (sel off : Word) : Keeps c (checkCodeDirect d sel off) :=
  .requireThen <| .requireThen <| .requireThen (.require _ _)

theorem jumpSegment (d : Descriptor) (sel off : Word) : Keeps .protectedOnly (jumpSegment d sel off) :=
  .updateProtected fun _ hs => (State.kept_loadFrom hs .cs _ d).trans (State.kept_transfer _ off)

theorem callSegment (d : Descriptor) (sel off : Word) : Keeps .protectedOnly (callSegment d sel off) :=
  .lookThen fun words => .enterSame d sel off words

theorem readParameters (count : Nat) : Keeps c (readParameters count) := by
  induction count with
  | zero => exact .pure []
  | succ k ih => exact .bind (.readTop _) fun v => .bind ih fun rest => .pure (v :: rest)

theorem callWords (count : Nat) : Keeps c (callWords count) := .bind (.readParameters count) fun _ => .look _

theorem checkCallGate (g : Descriptor) (sel : Word) : Keeps c (checkCallGate g sel) :=
  .requireThen <| .requireThen <| .requireThen <| .bind (.readDescriptor _ _) fun d =>
  .requireThen <| .requireThen <| .requireThen (.pure d)

theorem jumpGate (g : Descriptor) (sel : Word) : Keeps .protectedOnly (jumpGate g sel) :=
  .bind (.checkCallGate g sel) fun d => .requireThen <| .requireThen (.jumpSegment d _ _)

theorem callGate (g : Descriptor) (sel : Word) : Keeps .protectedOnly (callGate g sel) :=
  .bind (.checkCallGate g sel) fun d => .lookThen fun _ =>
  .ite (.requireThen (.callSegment d _ _)) (.enterInner d _ _ (.callWords _))

theorem switchByGate (k : SwitchKind) (g : Descriptor) (sel : Word) : Keeps .protectedOnly (switchByGate k g sel) :=
  .requireThen <| .requireThen <| .bind (.taskGateTarget g) fun t => .lookThen fun ip => .taskSwitch k _ t ip

theorem switchByTss (k : SwitchKind) (t : Descriptor) (sel : Word) : Keeps .protectedOnly (switchByTss k t sel) :=
  .requireThen <| .requireThen <| .lookThen fun ip => .taskSwitch k sel t ip

theorem jumpFarProtected (off sel : Word) : Keeps .protectedOnly (jumpFarProtected off sel) := by
  refine .requireThen <| .bind (.readDescriptor sel _) fun d => ?_
  cases d.systemType with
  | none => exact .bind (.checkCodeDirect d sel off) fun _ => .jumpSegment d sel off
  | some t =>
    exact .ite (.jumpGate d sel) <| .ite (.switchByGate .jmp d sel) <| .ite (.switchByTss .jmp d sel) (.stop _)

theorem callFarProtected (off sel : Word) : Keeps .protectedOnly (callFarProtected off sel) := by
  refine .requireThen <| .bind (.readDescriptor sel _) fun d => ?_
  cases d.systemType with
  | none => exact .bind (.checkCodeDirect d sel off) fun _ => .callSegment d sel off
  | some t =>
    exact .ite (.callGate d sel) <| .ite (.switchByGate .call d sel) <| .ite (.switchByTss .call d sel) (.stop _)

theorem jumpFar (off sel : Word) : Keeps .all (jumpFar off sel) :=
  .byMode (.update fun s => s.kept_farTransfer (.refl _) sel off) (.jumpFarProtected off sel)

theorem callFarReal (off sel : Word) : Keeps c (callFarReal off sel) :=
  .bind (.requireStack 2) fun _ => .lookThen fun cs => .bind (.push16 cs) fun _ => .lookThen fun ip =>
  .bind (.push16 ip) fun _ => .update fun s => s.kept_farTransfer (.refl _) sel off

theorem callFar (off sel : Word) : Keeps .all (callFar off sel) :=
  .byMode (.callFarReal off sel) (.callFarProtected off sel)

theorem returnNear (imm : Word) : Keeps c (returnNear imm) :=
  .bind (.readTop _) fun t => .requireThen <| .update fun s => (s.kept_transfer t).trans (State.kept_setReg _ SP _)

theorem returnFar (imm : Word) : Keeps .all (returnFar imm) :=
  .bind (.readTop _) fun off => .bind (.readTop _) fun sel =>
  .byMode (.update fun s => (s.kept_farTransfer (.refl _) sel off).trans (State.kept_setReg _ SP _))
    (.returnWithinTask sel off 4 imm)

end Keeps

/-! Arithmetic and logic: no operation writes IOPL or NT (41_arithmetic.md, 42_logic.md). -/

/-- An operation that leaves the system flags as they are. -/
def AluOp.SameSystem {n : Nat} (op : AluOp n) : Prop :=
  ∀ (k : Nat) (f : Flags) (a b : BitVec n), f.SameSystem (op k f a b).2

theorem addOp_sameSystem {n : Nat} : (addOp : AluOp n).SameSystem := fun _ _ _ _ => ⟨rfl, rfl⟩
theorem adcOp_sameSystem {n : Nat} : (adcOp : AluOp n).SameSystem := fun _ _ _ _ => ⟨rfl, rfl⟩
theorem subOp_sameSystem {n : Nat} : (subOp : AluOp n).SameSystem := fun _ _ _ _ => ⟨rfl, rfl⟩
theorem sbbOp_sameSystem {n : Nat} : (sbbOp : AluOp n).SameSystem := fun _ _ _ _ => ⟨rfl, rfl⟩
theorem andOp_sameSystem {n : Nat} : (andOp : AluOp n).SameSystem := fun _ _ _ _ => ⟨rfl, rfl⟩
theorem orOp_sameSystem {n : Nat} : (orOp : AluOp n).SameSystem := fun _ _ _ _ => ⟨rfl, rfl⟩
theorem xorOp_sameSystem {n : Nat} : (xorOp : AluOp n).SameSystem := fun _ _ _ _ => ⟨rfl, rfl⟩

theorem shiftFlags_sameSystem {n : Nat} (f : Flags) (op : ShiftOp) (x : BitVec n) (count : Byte) (n0 : Nat) :
    f.SameSystem (shiftFlags f op x count n0) := by
  unfold shiftFlags
  dsimp only
  split
  · exact .refl f
  · split <;> exact ⟨rfl, rfl⟩

namespace Keeps

theorem aluToRm (w : Width) (rm : Rm) (src : State → BitVec w.bits) (k : Nat) {op : AluOp w.bits}
    (hop : op.SameSystem) : Keeps c (aluToRm w rm src k op) :=
  .checkThen <| .drawThen fun n => .update fun s =>
    .of_frame (State.setRm_wf · rm w _) (by simp) (hop n s.flags (s.rmValue rm w) (src s))

theorem aluToReg (w : Width) (r : Reg) (rm : Rm) (k : Nat) {op : AluOp w.bits} (hop : op.SameSystem) :
    Keeps c (aluToReg w r rm k op) :=
  .checkThen <| .drawThen fun n => .update fun s =>
    .of_frame (State.putReg_wf · w r _) (by simp) (hop n s.flags (s.getReg w r) (s.rmValue rm w))

theorem aluToAcc (w : Width) (v : BitVec w.bits) (k : Nat) {op : AluOp w.bits} (hop : op.SameSystem) :
    Keeps c (aluToAcc w v k op) :=
  .drawThen fun n => .update fun s =>
    .of_frame (State.putReg_wf · w 0 _) (by simp [State.setAcc]) (hop n s.flags (s.acc w) v)

theorem aluRmReg (w : Width) (d : Dir) (rm : Rm) (r : Reg) (k : Nat) {op : AluOp w.bits} (hop : op.SameSystem) :
    Keeps c (aluRmReg w d rm r k op) := by
  cases d with
  | toRm => exact .aluToRm w rm _ k hop
  | toReg => exact .aluToReg w r rm k hop

theorem aluTest (w : Width) (rm : Rm) (k : Nat) {op : AluOp w.bits} (hop : op.SameSystem)
    (a b : State → BitVec w.bits) : Keeps c (aluTest w rm k op a b) :=
  .checkThen <| .drawThen fun n => .update fun s => s.kept_flags (hop n s.flags (a s) (b s))

theorem compareRmReg (w : Width) (d : Dir) (rm : Rm) (r : Reg) : Keeps c (compareRmReg w d rm r) := by
  cases d <;> exact .aluTest w rm 0 subOp_sameSystem _ _

theorem unaryRm (w : Width) (rm : Rm) {op : Flags → BitVec w.bits → BitVec w.bits × Flags}
    (hop : ∀ (f : Flags) (a : BitVec w.bits), f.SameSystem (op f a).2) : Keeps c (unaryRm w rm op) :=
  .checkThen <| .update fun s => .of_frame (State.setRm_wf · rm w _) (by simp) (hop s.flags (s.rmValue rm w))

theorem shiftRm (op : ShiftOp) (w : Width) (rm : Rm) (count : Byte) : Keeps c (shiftRm op w rm count) :=
  .checkThen <| .ite (.pure ()) <| .drawThen fun n => .update fun s =>
    .of_frame (State.setRm_wf · rm w _) (by simp) (shiftFlags_sameSystem s.flags op (s.rmValue rm w) count n)

end Keeps

/-- The adjustments write AX and the status flags (R263 to R266). -/
theorem State.kept_freeAdjust (s : State) (high : Bool) (n : Nat) : s.Kept (s.freeAdjust high n) :=
  s.kept_setRegFlags AX _ ⟨rfl, rfl⟩

theorem State.kept_ascii (s : State) (al ah : Byte) (n : Nat) : s.Kept (s.ascii al ah n) := by
  unfold ascii
  split
  · exact s.kept_setRegFlags AX _ ⟨rfl, rfl⟩
  · exact (s.kept_setReg8 AL _).trans (kept_flags _ ⟨by simp [Flags.allFree], by simp [Flags.allFree]⟩)

theorem State.kept_decimal (s : State) (al : Byte) (n : Nat) : s.Kept (s.decimal al n) :=
  (s.kept_setReg8 AL al).trans (kept_flags _ ⟨by simp [Flags.ofResult], by simp [Flags.ofResult]⟩)

theorem State.kept_mul (s : State) (w : Width) (v : BitVec w.bits) (n : Nat) : s.Kept (s.mul w v n) := by
  cases w with
  | byte => exact s.kept_setRegFlags AX _ ⟨rfl, rfl⟩
  | word => exact s.kept_setRegsFlags AX DX _ _ ⟨rfl, rfl⟩

theorem State.kept_imul (s : State) (w : Width) (v : BitVec w.bits) (n : Nat) : s.Kept (s.imul w v n) := by
  cases w with
  | byte => exact s.kept_setRegFlags AX _ ⟨rfl, rfl⟩
  | word => exact s.kept_setRegsFlags AX DX _ _ ⟨rfl, rfl⟩

theorem State.kept_div (s : State) (w : Width) (v : BitVec w.bits) (n : Nat) :
    s.Kept { s.div w v with flags := s.flags.allFree n } := by
  cases w with
  | byte => exact s.kept_setRegFlags AX _ ⟨rfl, rfl⟩
  | word => exact s.kept_setRegsFlags AX DX _ _ ⟨rfl, rfl⟩

theorem State.kept_idiv (s : State) (w : Width) (v : BitVec w.bits) (n : Nat) :
    s.Kept { s.idiv w v with flags := s.flags.allFree n } := by
  cases w with
  | byte => exact s.kept_setRegFlags AX _ ⟨rfl, rfl⟩
  | word => exact s.kept_setRegsFlags AX DX _ _ ⟨rfl, rfl⟩

namespace Keeps

/-! Stack instructions, ENTER and software interrupts. -/

theorem loopIf (cond : State → Bool) (disp : Byte) : Keeps c (loopIf cond disp) :=
  .bind (.jumpIf _ disp) fun _ => .update fun s => s.kept_setReg CX _

theorem pushAt (t v : Word) : Keeps c (pushAt t v) := .checkThen (.update fun s => s.kept_store .ss t .word v)

theorem enterLevels (count : Nat) (bp sp : Word) : Keeps c (enterLevels count bp sp) := by
  induction count generalizing bp sp with
  | zero => exact .pure sp
  | succ k ih => exact .bind (.segRead .ss _ .word) fun v => .bind (.pushAt _ v) fun _ => ih _ _

theorem enterFrames (level : Nat) (bp frame : Word) : Keeps c (enterFrames level bp frame) := by
  cases level with
  | zero => exact .pure frame
  | succ k => exact .bind (.enterLevels k bp frame) fun sp => .bind (.pushAt _ frame) fun _ => .pure (sp - 2)

theorem enterPushes (level : Nat) (bp frame : Word) : Keeps c (enterPushes level bp frame) :=
  .bind (.pushAt frame bp) fun _ => .enterFrames level bp frame

theorem allOrNone (count : Nat) {m : M Word} (h : Keeps c m) : Keeps c (allOrNone count m) := by
  intro s hs
  unfold Machine.allOrNone
  cases hm : m s with
  | ok v t => exact h.ok hs hm
  | error e t =>
    cases e with
    | shutdown => exact s.kept_wrapStack count
    | exc v err => exact .refl s
    | fault f => exact .refl s
    | refused r => exact .refl s

theorem softwareInterrupt (v : Byte) : Keeps .all (softwareInterrupt v) := .lookThen fun ip => .enter v ip true none

theorem pushOperand (v : Word) : Keeps c (pushOperand v) :=
  .lookThen fun _ => .ite
    (.drawThen fun n => .bind
      (.update fun s => (s.kept_freeStackWord 0xFFFF n).trans (State.kept_setReg _ SP _)) fun _ => .stop .shutdown)
    (.push16 v)

theorem checkPop : Keeps c checkPop :=
  .lookThen fun _ => .ite
    (.drawThen fun n => .bind (.update fun s => s.kept_setReg SP (Config.freeWord n)) fun _ => .stop _)
    (.check _)

theorem pushAllReal : Keeps c pushAllReal :=
  .lookThen fun sp => .ite
    (.drawThen fun n => .bind
      (.update fun s => ((s.kept_writeFrame _ sp _).trans (State.kept_freeStackWords _ _ n _)).trans
        (State.kept_setReg _ SP _)) fun _ => .stop .shutdown)
    (.update fun s => (s.kept_writeFrame _ sp _).trans (State.kept_setReg _ SP _))

theorem pushAllProtected : Keeps c pushAllProtected :=
  .lookThen fun sp => .ite
    (.checkThen <| .bind (.update fun s => (s.kept_writeFrame _ sp _).trans (State.kept_setReg _ SP _)) fun _ => .stop _)
    (.checkThen <| .update fun s => (s.kept_writeFrame _ sp _).trans (State.kept_setReg _ SP _))

theorem popAllReal : Keeps c popAllReal :=
  .lookThen fun sp => .ite
    (.drawThen fun n => .bind
      (.update fun s => ((s.kept_popSlots sp _).trans (State.kept_freeSlots _ n _)).trans (State.kept_setReg _ SP _))
      fun _ => .stop _)
    (.update fun s => (s.kept_popSlots sp 8).trans (State.kept_setReg _ SP _))

theorem popAllProtected : Keeps c popAllProtected :=
  .lookThen fun sp => .ite
    (.checkThen <| .bind (.update fun s => (s.kept_popSlots sp _).trans (State.kept_setReg _ SP _)) fun _ => .stop _)
    (.checkThen <| .update fun s => (s.kept_popSlots sp 8).trans (State.kept_setReg _ SP _))

theorem inputFrom (port : Word) (w : Width) : Keeps c (inputFrom port w) :=
  .requireThen <| .bind (.ioRead port w) fun v => .update fun s => s.kept_putReg w 0 v

theorem outputTo (port : Word) (w : Width) : Keeps c (outputTo port w) :=
  .requireThen <| .update fun s => s.kept_ioWrite port w _

theorem loadPointer (sr : SReg) (r : Reg) (m : MemOp) : Keeps .all (loadPointer sr r m) :=
  .bind (.readPointer m) fun p => .bind (.loadSeg sr p.2) fun _ => .update fun s => s.kept_setReg r p.1

/-! String instructions (43_string.md). -/

theorem movsOnce (w : Width) : Keeps c (movsOnce w) :=
  .checkThen <| .checkThen <| .update fun s =>
    ((s.kept_store .es _ w _).trans (State.kept_setReg _ SI _)).trans (State.kept_setReg _ DI _)

theorem cmpsOnce (w : Width) : Keeps c (cmpsOnce w) :=
  .checkThen <| .checkThen <| .update fun s =>
    s.kept_setRegsFlags SI DI _ _ ⟨rfl, rfl⟩

theorem scasOnce (w : Width) : Keeps c (scasOnce w) :=
  .checkThen <| .update fun s => s.kept_setRegFlags DI _ ⟨rfl, rfl⟩

theorem lodsOnce (w : Width) : Keeps c (lodsOnce w) :=
  .checkThen <| .update fun s => (s.kept_putReg w 0 _).trans (State.kept_setReg _ SI _)

theorem stosOnce (w : Width) : Keeps c (stosOnce w) :=
  .checkThen <| .update fun s => (s.kept_store .es _ w _).trans (State.kept_setReg _ DI _)

theorem insOnce (w : Width) : Keeps c (insOnce w) :=
  .requireThen <| .checkThen <| .bind (.lookThen fun port => .ioRead port w) fun v =>
  .update fun s => (s.kept_store .es _ w v).trans (State.kept_setReg _ DI _)

theorem outsOnce (w : Width) : Keeps c (outsOnce w) :=
  .requireThen <| .checkThen <| .update fun s => (s.kept_ioWrite _ w _).trans (State.kept_setReg _ SI _)

theorem iterate (i : Instr) (compares z : Bool) {once : M Unit} (h : Keeps c once) :
    Keeps c (iterate i compares z once) :=
  .lookThen fun _ => .ite (.pure ()) <| .bind h fun _ => .bind (.update fun s => s.kept_setReg CX _) fun _ =>
  .lookThen fun _ => .ite (.pure ()) (.update fun s => s.kept_nextIteration i)

/-! Protection control (47_protection_control.md). -/

theorem readTable (m : MemOp) : Keeps c (readTable m) := .requireThen <| .checkThen (.look _)

theorem loadLdtr (sel : Word) : Keeps c (loadLdtr sel) :=
  .ite (.update fun _ => .of_same rfl) <| .requireThen <| .bind (.readDescriptor sel _) fun _ =>
  .requireThen <| .requireThen <| .update fun _ => .of_same rfl

theorem loadTr (sel : Word) : Keeps c (loadTr sel) :=
  .requireThen <| .bind (.readDescriptor sel _) fun d => .requireThen <| .requireThen <|
  .update fun s => (s.kept_setSystemType d.addr 3).trans (.of_same rfl)

theorem probe (sel : Word) : Keeps c (probe sel) := by
  refine .lookThen fun a => ?_
  cases a with
  | none => exact .pure none
  | some a => exact .bind (.readDescriptorAt a) fun d => .pure (some d)

end Keeps

theorem State.kept_setZf (s : State) (v : Bool) : s.Kept (s.setZf v) := s.kept_flags ⟨rfl, rfl⟩

theorem State.kept_testPassed (s : State) (d : Descriptor) : s.Kept (s.testPassed d) := by
  unfold testPassed
  split
  · exact (s.kept_setAccessed d).trans (kept_setZf _ true)
  · exact s.kept_setZf true

namespace Keeps

theorem pointerTest (rm : Rm) (accepts : State → Descriptor → Word → Bool) {result : Descriptor → State → State}
    (h : ∀ (d : Descriptor) (s : State), s.Kept (result d s)) : Keeps c (pointerTest rm accepts result) := by
  refine .bind (.readRm rm .word) fun sel => .bind (.probe sel) fun found => ?_
  cases found with
  | none => exact .update fun s => s.kept_setZf false
  | some d =>
    refine .update fun s => ?_
    split
    · exact (s.kept_testPassed d).trans (h d _)
    · exact s.kept_setZf false

end Keeps
end

/-! Every instruction. -/

theorem State.KeptBy.stringInstr {i : Instr} {compares : Bool} {once : M Unit} {s : State} (h : Keeps .all once) :
    s.KeptBy (stringInstr i compares once s) := by
  unfold Machine.stringInstr
  cases s.pfx.rep with
  | none => exact .performString h
  | some z => exact .performString (h.iterate i compares z)

/-- MOV and POP name no CS; the other segment registers are loaded (30_encoding.md R176). -/
theorem State.KeptBy.unlessCs {sr : SReg} {s : State} {o : Host.Outcome State Fault Refusal} (h : s.KeptBy o) :
    s.KeptBy (if sr = .cs then takeException 6 none s else o) := .ite (s.keptBy_takeException 6 none) h

theorem State.kept_holdOff (s : State) (sr : SReg) : s.Kept (s.holdOff sr) :=
  .of_same rfl

theorem State.kept_stall (s : State) : s.Kept s.stall := .of_same rfl

theorem State.keptBy_addPrefix (s : State) (f : Prefixes → Prefixes) : s.KeptBy (.next (s.addPrefix f)) :=
  .next (.of_same rfl)

theorem State.keptBy_exec (s : State) (i : Instr) : s.KeptBy (exec i s) :=
  match i with
  | .movRmReg w rm r => .perform (.lookThen fun v => .writeRm rm w v)
  | .movRegRm w r rm => .perform (.bind (.readRm rm w) fun v => .update fun s => s.kept_putReg w r v)
  | .movRmImm rm _ => .perform (.writeRm rm _ _)
  | .movRegImm r _ => .perform (.update fun s => s.kept_putReg _ r _)
  | .movAccMem w off => .perform (.bind (.segRead _ off w) fun v => .update fun s => s.kept_putReg w 0 v)
  | .movMemAcc w off => .perform (.segWrite _ off w _)
  | .movSregRm sr rm => .unlessCs <| .perform (.bind (.readRm rm .word) fun v => .bind (.loadSeg sr v) fun _ =>
      .update fun s => s.kept_holdOff sr)
  | .movRmSreg rm _ => .perform (.lookThen fun v => .writeRm rm .word v)
  | .pushRm rm => .perform (.bind (.readRm rm .word) fun v => .pushOperand v)
  | .pushReg _ => .perform (.lookThen fun v => .pushOperand v)
  | .pushSreg _ => .perform (.lookThen fun v => .pushOperand v)
  | .pushImm imm => .perform (.pushOperand (sxValue imm))
  | .pusha => .perform (.ite .pushAllProtected .pushAllReal)
  | .popRm rm => .perform (.bind .checkPop fun _ => .checkThen <| .lookThen fun v =>
      .update fun s => (s.kept_setReg SP _).trans (State.kept_setRm _ rm .word v))
  | .popReg r => .perform (.bind .checkPop fun _ => .lookThen fun v =>
      .update fun s => (s.kept_setReg SP _).trans (State.kept_setReg _ r v))
  | .popSreg sr => .unlessCs <| .perform (.bind .checkPop fun _ => .lookThen fun v => .bind (.loadSeg sr v) fun _ =>
      .update fun s => (s.kept_setReg SP _).trans (State.kept_holdOff _ sr))
  | .popa => .perform (.ite .popAllProtected .popAllReal)
  | .xchgRmReg w rm r => .perform (.checkThen <| .update fun s =>
      (s.kept_setRm rm w _).trans (State.kept_putReg _ w r _))
  | .xchgAx r => .perform (.update fun s => (s.kept_setReg AX _).trans (State.kept_setReg _ r _))
  | .nop => .perform (.pure ())
  | .inPort w _ => .perform (.inputFrom _ w)
  | .inDx w => .perform (.inputFrom _ w)
  | .outPort w _ => .perform (.outputTo _ w)
  | .outDx w => .perform (.outputTo _ w)
  | .xlat => .perform (.bind (.segRead _ _ .byte) fun v => .update fun s => s.kept_setReg8 AL v)
  | .lea r _ => .perform (.update fun s => s.kept_setReg r _)
  | .lds r m => .perform (.loadPointer .ds r m)
  | .les r m => .perform (.loadPointer .es r m)
  | .lahf => .perform (.update fun s => s.kept_setReg8 AH _)
  | .sahf => .perform (.update fun s => s.kept_flags ⟨rfl, rfl⟩)
  | .pushf => .perform (.lookThen fun v => .pushOperand v)
  | .popf => .perform (.bind .pop16 fun v => .update fun s => s.kept_loadFlags v)
  | .addRmReg w d rm r => .perform (.aluRmReg w d rm r 0 addOp_sameSystem)
  | .addRmImm rm _ => .perform (.aluToRm _ rm _ 0 addOp_sameSystem)
  | .addAccImm _ => .perform (.aluToAcc _ _ 0 addOp_sameSystem)
  | .adcRmReg w d rm r => .perform (.aluRmReg w d rm r 0 adcOp_sameSystem)
  | .adcRmImm rm _ => .perform (.aluToRm _ rm _ 0 adcOp_sameSystem)
  | .adcAccImm _ => .perform (.aluToAcc _ _ 0 adcOp_sameSystem)
  | .incRm w rm => .perform (.unaryRm w rm fun _ _ => ⟨rfl, rfl⟩)
  | .incReg r => .perform (.unaryRm .word (.reg r) fun _ _ => ⟨rfl, rfl⟩)
  | .subRmReg w d rm r => .perform (.aluRmReg w d rm r 0 subOp_sameSystem)
  | .subRmImm rm _ => .perform (.aluToRm _ rm _ 0 subOp_sameSystem)
  | .subAccImm _ => .perform (.aluToAcc _ _ 0 subOp_sameSystem)
  | .sbbRmReg w d rm r => .perform (.aluRmReg w d rm r 0 sbbOp_sameSystem)
  | .sbbRmImm rm _ => .perform (.aluToRm _ rm _ 0 sbbOp_sameSystem)
  | .sbbAccImm _ => .perform (.aluToAcc _ _ 0 sbbOp_sameSystem)
  | .decRm w rm => .perform (.unaryRm w rm fun _ _ => ⟨rfl, rfl⟩)
  | .decReg r => .perform (.unaryRm .word (.reg r) fun _ _ => ⟨rfl, rfl⟩)
  | .cmpRmReg w d rm r => .perform (.compareRmReg w d rm r)
  | .cmpRmImm rm _ => .perform (.aluTest _ rm 0 subOp_sameSystem _ _)
  | .cmpAccImm _ => .perform (.aluTest _ (.reg 0) 0 subOp_sameSystem _ _)
  | .negRm w rm => .perform (.unaryRm w rm fun _ _ => ⟨rfl, rfl⟩)
  | .aaa => .perform (.drawThen fun n => .update fun s => .ite (s.kept_freeAdjust true n) (s.kept_ascii _ _ n))
  | .daa => .perform (.drawThen fun n => .update fun s => .ite (s.kept_freeAdjust false n) (s.kept_decimal _ n))
  | .aas => .perform (.drawThen fun n => .update fun s => .ite (s.kept_freeAdjust true n) (s.kept_ascii _ _ n))
  | .das => .perform (.drawThen fun n => .update fun s => .ite (s.kept_freeAdjust false n) (s.kept_decimal _ n))
  | .mulRm w rm => .perform (.bind (.readRm rm w) fun v => .drawThen fun n => .update fun s => s.kept_mul w v n)
  | .imulRm w rm => .perform (.bind (.readRm rm w) fun v => .drawThen fun n => .update fun s => s.kept_imul w v n)
  | .imulRegRmImm r rm _ => .perform (.bind (.readRm rm .word) fun _ => .drawThen fun _ => .update fun s =>
      s.kept_setRegFlags r _ ⟨rfl, rfl⟩)
  | .divRm w rm => .perform (.bind (.readRm rm w) fun v => .requireThen <| .drawThen fun n =>
      .update fun s => s.kept_div w v n)
  | .idivRm w rm => .perform (.bind (.readRm rm w) fun v => .requireThen <| .drawThen fun n => .requireThen <|
      .update fun s => s.kept_idiv w v n)
  | .aam => .perform (.drawThen fun _ => .update fun s => s.kept_setRegFlags AX _ ⟨rfl, rfl⟩)
  | .aad => .perform (.drawThen fun _ => .update fun s => s.kept_setRegFlags AX _ ⟨rfl, rfl⟩)
  | .cbw => .perform (.update fun s => s.kept_setReg AX _)
  | .cwd => .perform (.update fun s => s.kept_setReg DX _)
  | .andRmReg w d rm r => .perform (.aluRmReg w d rm r 1 andOp_sameSystem)
  | .andRmImm rm _ => .perform (.aluToRm _ rm _ 1 andOp_sameSystem)
  | .andAccImm _ => .perform (.aluToAcc _ _ 1 andOp_sameSystem)
  | .testRmReg w rm _ => .perform (.aluTest w rm 1 andOp_sameSystem _ _)
  | .testRmImm rm _ => .perform (.aluTest _ rm 1 andOp_sameSystem _ _)
  | .testAccImm _ => .perform (.aluTest _ (.reg 0) 1 andOp_sameSystem _ _)
  | .orRmReg w d rm r => .perform (.aluRmReg w d rm r 1 orOp_sameSystem)
  | .orRmImm rm _ => .perform (.aluToRm _ rm _ 1 orOp_sameSystem)
  | .orAccImm _ => .perform (.aluToAcc _ _ 1 orOp_sameSystem)
  | .xorRmReg w d rm r => .perform (.aluRmReg w d rm r 1 xorOp_sameSystem)
  | .xorRmImm rm _ => .perform (.aluToRm _ rm _ 1 xorOp_sameSystem)
  | .xorAccImm _ => .perform (.aluToAcc _ _ 1 xorOp_sameSystem)
  | .notRm w rm => .perform (.unaryRm w rm fun f _ => .refl f)
  | .rolRm1 w rm => .perform (.shiftRm .rol w rm 1)
  | .rolRmCl w rm => .perform (.shiftRm .rol w rm _)
  | .rolRmImm w rm count => .perform (.shiftRm .rol w rm count)
  | .rorRm1 w rm => .perform (.shiftRm .ror w rm 1)
  | .rorRmCl w rm => .perform (.shiftRm .ror w rm _)
  | .rorRmImm w rm count => .perform (.shiftRm .ror w rm count)
  | .rclRm1 w rm => .perform (.shiftRm .rcl w rm 1)
  | .rclRmCl w rm => .perform (.shiftRm .rcl w rm _)
  | .rclRmImm w rm count => .perform (.shiftRm .rcl w rm count)
  | .rcrRm1 w rm => .perform (.shiftRm .rcr w rm 1)
  | .rcrRmCl w rm => .perform (.shiftRm .rcr w rm _)
  | .rcrRmImm w rm count => .perform (.shiftRm .rcr w rm count)
  | .shlRm1 w rm => .perform (.shiftRm .shl w rm 1)
  | .shlRmCl w rm => .perform (.shiftRm .shl w rm _)
  | .shlRmImm w rm count => .perform (.shiftRm .shl w rm count)
  | .shrRm1 w rm => .perform (.shiftRm .shr w rm 1)
  | .shrRmCl w rm => .perform (.shiftRm .shr w rm _)
  | .shrRmImm w rm count => .perform (.shiftRm .shr w rm count)
  | .sarRm1 w rm => .perform (.shiftRm .sar w rm 1)
  | .sarRmCl w rm => .perform (.shiftRm .sar w rm _)
  | .sarRmImm w rm count => .perform (.shiftRm .sar w rm count)
  | .movs w => .stringInstr (.movsOnce w)
  | .cmps w => .stringInstr (.cmpsOnce w)
  | .scas w => .stringInstr (.scasOnce w)
  | .lods w => .stringInstr (.lodsOnce w)
  | .stos w => .stringInstr (.stosOnce w)
  | .ins w => .stringInstr (.insOnce w)
  | .outs w => .stringInstr (.outsOnce w)
  | .rep => s.keptBy_addPrefix _
  | .repne => s.keptBy_addPrefix _
  | .jmpShort _ => .perform (.jumpTo _)
  | .jmpNear _ => .perform (.jumpTo _)
  | .jmpRm rm => .perform (.bind (.readRm rm .word) fun t => .jumpTo t)
  | .jmpFar off sel => .perform (.jumpFar off sel)
  | .jmpFarMem m => .perform (.bind (.readPointer m) fun p => .jumpFar p.1 p.2)
  | .callNear _ => .perform (.callTo _)
  | .callRm rm => .perform (.bind (.readRm rm .word) fun t => .callTo t)
  | .callFar off sel => .perform (.callFar off sel)
  | .callFarMem m => .perform (.bind (.readPointer m) fun p => .callFar p.1 p.2)
  | .jo disp => .perform (.jumpIf _ disp)
  | .jno disp => .perform (.jumpIf _ disp)
  | .jb disp => .perform (.jumpIf _ disp)
  | .jnb disp => .perform (.jumpIf _ disp)
  | .je disp => .perform (.jumpIf _ disp)
  | .jne disp => .perform (.jumpIf _ disp)
  | .jbe disp => .perform (.jumpIf _ disp)
  | .jnbe disp => .perform (.jumpIf _ disp)
  | .js disp => .perform (.jumpIf _ disp)
  | .jns disp => .perform (.jumpIf _ disp)
  | .jp disp => .perform (.jumpIf _ disp)
  | .jnp disp => .perform (.jumpIf _ disp)
  | .jl disp => .perform (.jumpIf _ disp)
  | .jnl disp => .perform (.jumpIf _ disp)
  | .jle disp => .perform (.jumpIf _ disp)
  | .jnle disp => .perform (.jumpIf _ disp)
  | .loop disp => .perform (.loopIf _ disp)
  | .loopz disp => .perform (.loopIf _ disp)
  | .loopnz disp => .perform (.loopIf _ disp)
  | .jcxz disp => .perform (.jumpIf _ disp)
  | .retNear => .perform (.returnNear 0)
  | .retNearImm n => .perform (.returnNear n)
  | .retFar => .perform (.returnFar 0)
  | .retFarImm n => .perform (.returnFar n)
  | .enter _ _ => .perform (.bind (.allOrNone _ (.enterPushes _ _ _)) fun _ =>
      .update fun s => (s.kept_setReg BP _).trans (State.kept_setReg _ SP _))
  | .leave => .perform (.bind (.segRead .ss _ .word) fun v =>
      .update fun s => (s.kept_setReg SP _).trans (State.kept_setReg _ BP v))
  | .bound _ m => .perform (.bind (.readPointer m) fun _ => .require _ _)
  | .intN v => .perform (.softwareInterrupt v)
  | .int3 => .perform (.softwareInterrupt 3)
  | .into => .perform (.ite (.softwareInterrupt 4) (.pure ()))
  | .iret => .perform .returnFromInterrupt
  | .clc => .perform (.update fun s => s.kept_flags ⟨rfl, rfl⟩)
  | .cmc => .perform (.update fun s => s.kept_flags ⟨rfl, rfl⟩)
  | .stc => .perform (.update fun s => s.kept_flags ⟨rfl, rfl⟩)
  | .cld => .perform (.update fun s => s.kept_flags ⟨rfl, rfl⟩)
  | .std => .perform (.update fun s => s.kept_flags ⟨rfl, rfl⟩)
  | .cli => .perform (.requireThen <| .update fun s => s.kept_flags ⟨rfl, rfl⟩)
  | .sti => .perform (.requireThen <| .update fun _ => .of_frame id)
  | .hlt => .perform (.requireThen <| .update fun _ => .of_same rfl)
  | .lock => s.keptBy_addPrefix _
  | .wait => .perform (.requireThen <| .ite (.update State.kept_stall) (.require _ _))
  | .esc ttt lll rm => .perform (.requireThen <| .checkThen <| .ite (.update State.kept_stall) <| .requireThen <|
      .update fun s => s.kept_escape ttt lll rm)
  | .clts => .perform (.requireThen <| .update fun _ => .of_frame id)
  | .segOverride _ => s.keptBy_addPrefix _
  | .lgdt m => .perform (.bind (.readTable m) fun _ => .update fun _ => .of_same rfl)
  | .sgdt m => .perform (.checkThen <| .drawThen fun n => .update fun s => s.kept_storeTable m s.gdtr n)
  | .lidt m => .perform (.bind (.readTable m) fun _ => .update fun _ => .of_same rfl)
  | .sidt m => .perform (.checkThen <| .drawThen fun n => .update fun s => s.kept_storeTable m s.idtr n)
  | .lldt rm => .performProtected (.requireThen <| .bind (.readRm rm .word) fun sel => .loadLdtr sel)
  | .sldt rm => .performProtected (.lookThen fun v => .writeRm rm .word v)
  | .ltr rm => .performProtected (.requireThen <| .bind (.readRm rm .word) fun sel => .loadTr sel)
  | .str rm => .performProtected (.lookThen fun v => .writeRm rm .word v)
  | .lmsw rm => .perform (.requireThen <| .bind (.readRm rm .word) fun v => .requireThen <|
      .update fun s => s.kept_loadMsw v _)
  | .smsw rm => .perform (.lookThen fun v => .writeRm rm .word v)
  | .verr rm => .performProtected (.pointerTest rm _ fun _ s => .refl s)
  | .verw rm => .performProtected (.pointerTest rm _ fun _ s => .refl s)
  | .lar r rm => .performProtected (.pointerTest rm _ fun _ s => s.kept_setReg r _)
  | .lsl r rm => .performProtected (.pointerTest rm _ fun _ s => s.kept_setReg r _)
  | .arpl rm _ => .performProtected (.bind (.readRm rm .word) fun _ => .lookThen fun _ =>
      .ite (.bind (.writeRm rm .word _) fun _ => .update fun s => s.kept_setZf true)
        (.update fun s => s.kept_setZf false))
  | .undefined _ => s.keptBy_takeException 6 none

/-! The step. -/

theorem State.keptBy_transferOperand (s : State) (o : ExtOperand) : s.KeptBy (s.transferOperand o) := by
  unfold transferOperand
  dsimp only
  cases s.operandStop o with
  | some e =>
    cases e with
    | fault f => exact .fault s f
    | exc v err => exact .next (.of_same rfl)
    | shutdown => exact .next (.of_same rfl)
    | refused r => exact .next (.of_same rfl)
  | none =>
    have hpins : s.Kept { s with pins := { s.pins with pereq := s.pins.pereq - 1 } } := .of_same rfl
    refine .next ?_
    cases o.toMemory
    · exact hpins.trans (.of_same rfl)
    · exact (hpins.trans (.of_frame (storeVia_wf · o.segment (BitVec.ofNat 16 o.off) .word _))).trans (.of_same rfl)

theorem State.keptBy_takeEvent (s : State) (e : Event) : s.KeptBy (takeEvent e s) := by
  have hbegin : s.Kept { s with curIp := s.ip, ticks := s.ticks + 1 } := .of_same rfl
  cases e with
  | singleStep => exact .of_kept hbegin (keptBy_takeInterrupt _ 1 s.ip false)
  | nmi =>
    have hnmi : s.Kept { s with
        curIp := s.ip, ticks := s.ticks + 1, nmiPending := false, nmiInService := true, pereqInhibited := false } :=
      .of_same rfl
    exact .of_kept hnmi (keptBy_takeInterrupt _ 2 s.ip true)
  | overrun =>
    have hoverrun : s.Kept { s with curIp := s.ip, ticks := s.ticks + 1, overrunPending := false } := .of_same rfl
    exact .of_kept hoverrun (keptBy_takeInterrupt _ 9 s.ip true)
  | interrupt v =>
    have hintr : s.Kept { s with
        curIp := s.ip, ticks := s.ticks + 1, pins := { s.pins with intr := none }, bus := .acknowledge v :: s.bus } :=
      .of_same rfl
    exact .of_kept hintr (keptBy_takeInterrupt _ v s.ip true)
  | operand =>
    refine .of_kept hbegin ?_
    unfold takeEvent
    dsimp only
    cases s.ext with
    | none => exact .next (.refl _)
    | some o => exact keptBy_transferOperand _ o

theorem State.kept_fetched (s : State) (len : Nat) : s.Kept (s.fetched len) :=
  .of_same rfl

theorem State.kept_resumed (s : State) (r : Repetition) : s.Kept (s.resumed r) :=
  .of_same rfl

theorem State.keptBy_runInstruction (s : State) : s.KeptBy (runInstruction s) := by
  cases h : decode s.window with
  | ok i rest =>
    rw [runInstruction_ok h]
    exact .of_kept (s.kept_fetched _) (keptBy_exec _ i)
  | badBase =>
    rw [runInstruction_badBase h]
    exact .refused s .adjustBase
  | needMore =>
    rw [runInstruction_needMore h]
    exact .ite (.refused s .tooLong) (.of_kept (s.kept_fetched 0) (keptBy_takeException _ 13 (some 0)))

theorem State.keptBy_advance (s : State) : s.KeptBy (advance s) := by
  unfold advance
  cases s.repeating with
  | some r => exact .of_kept (s.kept_resumed r) (keptBy_exec _ r.instr)
  | none => exact s.keptBy_runInstruction

/-- Every step but RESET keeps the board, the canonical memory, protected mode and the form of real mode. -/
theorem State.keptBy_step (s : State) (h : s.pins.reset = false) : s.KeptBy (step s) := by
  unfold step
  rw [if_neg (by simp [h])]
  refine .ite ?_ s.keptBy_runInstruction
  cases s.event with
  | some e => exact s.keptBy_takeEvent e
  | none => exact .ite (.next (.refl s)) s.keptBy_advance

/-- RESET leaves the canonical memory and the board, and the form of real mode (10_state.md R29, R44). -/
theorem State.inv_resetByPin {s : State} (h : s.Inv) : s.resetByPin.Inv ∧ s.resetByPin.board = s.board :=
  ⟨⟨h.1, resetInvariant.2⟩, rfl⟩

/-- Settles O8: RESET leaves the form of real mode, and every other step keeps it. -/
theorem stepKeepsInvariant : Obligations.StepKeepsInvariant := by
  intro s t hs ht
  cases h : s.pins.reset
  · have hkept := s.keptBy_step h t ht
    exact ⟨hkept.inv hs, hkept.board⟩
  · rw [step_reset h] at ht
    cases ht
    exact State.inv_resetByPin hs

/-- Settles O9, from what every step but RESET keeps. -/
theorem protectedModeStays : Obligations.ProtectedModeStays := fun s t hpe hreset ht => (s.keptBy_step hreset t ht).pe hpe

end Sys2Proof.Machine

/-! Memory: the canonical form says how memory is written down, and a stored operand or frame reads back
(20_memory.md R70, R71, R86, R143). -/

namespace Sys2Proof.Machine

/-! The canonical form is determined by what it reads. -/

@[simp] theorem Memory.read_head (k : Nat) (v : Byte) (rest : List Host.Cell) :
    Memory.read ((k, v) :: rest) k = v := by simp [Memory.read]

theorem Memory.read_tail {k a : Nat} (v : Byte) (rest : List Host.Cell) (h : a ≠ k) :
    Memory.read ((k, v) :: rest) a = Memory.read rest a := by
  simp only [Memory.read, if_neg (Ne.symm h)]

theorem Memory.wfFrom_cons {low k : Nat} {v : Byte} {rest : List Host.Cell} :
    Memory.wfFrom low ((k, v) :: rest) = true ↔
      low ≤ k ∧ k < 2 ^ 24 ∧ v ≠ unlisted ∧ Memory.wfFrom (k + 1) rest = true := by
  simp only [Memory.wfFrom, Bool.and_eq_true, decide_eq_true_eq, bne_iff_ne, and_assoc]

/-- The tail of a canonical list reads as nothing written at the head's address. -/
theorem Memory.read_rest_head {low k : Nat} {v : Byte} {rest : List Host.Cell}
    (h : Memory.wfFrom low ((k, v) :: rest) = true) : Memory.read rest k = unlisted :=
  Memory.read_below (Memory.wfFrom_cons.mp h).2.2.2 (Nat.lt_succ_self k)

/-- The head of a canonical list is its lowest address that does not read as nothing written. -/
theorem Memory.head_le {low low' k k' : Nat} {v v' : Byte} {rest rest' : List Host.Cell}
    (h : Memory.wfFrom low ((k, v) :: rest) = true) (h' : Memory.wfFrom low' ((k', v') :: rest') = true)
    (hread : Memory.read ((k, v) :: rest) k = Memory.read ((k', v') :: rest') k) : k' ≤ k := by
  obtain ⟨-, -, hv, -⟩ := Memory.wfFrom_cons.mp h
  obtain ⟨-, hk', hv', hrest'⟩ := Memory.wfFrom_cons.mp h'
  by_contra hlt
  have hcanon : Memory.wfFrom k' ((k', v') :: rest') = true := Memory.wfFrom_cons.mpr ⟨le_rfl, hk', hv', hrest'⟩
  rw [Memory.read_head, Memory.read_below hcanon (by omega)] at hread
  exact hv hread

/-- Canonical memories that read alike are equal. -/
theorem Memory.eq_of_read_eq {low : Nat} {m m' : List Host.Cell} (hm : Memory.wfFrom low m = true)
    (hm' : Memory.wfFrom low m' = true) (h : ∀ a, Memory.read m a = Memory.read m' a) : m = m' := by
  induction m generalizing low m' with
  | nil =>
    cases m' with
    | nil => rfl
    | cons c rest' => exact absurd ((h c.1).trans (read_head c.1 c.2 rest')).symm (wfFrom_cons.mp hm').2.2.1
  | cons c rest ih =>
    cases m' with
    | nil => exact absurd ((read_head c.1 c.2 rest).symm.trans (h c.1)) (wfFrom_cons.mp hm).2.2.1
    | cons c' rest' =>
      obtain ⟨k, v⟩ := c
      obtain ⟨k', v'⟩ := c'
      obtain rfl : k = k' := le_antisymm (head_le hm' hm (h k').symm) (head_le hm hm' (h k))
      obtain rfl : v = v' := by simpa using h k
      have hrest : ∀ a, read rest a = read rest' a := by
        intro a
        by_cases ha : a = k
        · rw [ha, read_rest_head hm, read_rest_head hm']
        · rw [← read_tail v rest ha, ← read_tail v rest' ha, h a]
      rw [ih (wfFrom_cons.mp hm).2.2.2 (wfFrom_cons.mp hm').2.2.2 hrest]

/-! Locations. -/

/-- Whatever the mode and the board, the low 20 bits of an address reach memory. -/
theorem State.physical_mod (s : State) (a : Addr) : s.physical a % 2 ^ 20 = a.toNat % 2 ^ 20 := by
  unfold physical
  split
  · rfl
  · exact Nat.mod_mod _ _

theorem State.physical_ne {s : State} {a b : Addr} (h : a.toNat % 2 ^ 20 ≠ b.toNat % 2 ^ 20) :
    s.physical a ≠ s.physical b := fun e => h (by rw [← s.physical_mod a, e, s.physical_mod b])

/-- The two bytes of a word lie at different locations. -/
theorem State.physical_next_ne (s : State) (a : Addr) : s.physical (a + 1) ≠ s.physical a :=
  physical_ne (by simp only [BitVec.toNat_add, BitVec.ofNat_eq_ofNat, BitVec.toNat_ofNat]; omega)

/-- The low 20 bits of the address of an offset. -/
theorem SegReg.address_mod (g : SegReg) (off : Word) :
    (g.base + zeroExtend24 off).toNat % 2 ^ 20 = (g.base.toNat + off.toNat) % 2 ^ 20 := by
  simp only [BitVec.toNat_add, BitVec.toNat_setWidth]
  omega

theorem SegReg.next_address_mod (g : SegReg) (off : Word) :
    (g.base + zeroExtend24 off + 1).toNat % 2 ^ 20 = (g.base.toNat + off.toNat + 1) % 2 ^ 20 := by
  have := g.address_mod off
  simp only [BitVec.toNat_add, BitVec.toNat_setWidth, BitVec.ofNat_eq_ofNat, BitVec.toNat_ofNat] at this ⊢
  omega

/-! Words. -/

/-- A word stored in RAM reads back. -/
theorem State.readWord_writeWord {s : State} (hm : Memory.wf s.mem = true) {a : Addr}
    (hlow : s.isRam (s.physical a) = true) (hhigh : s.isRam (s.physical (a + 1)) = true) (v : Word) :
    (s.writeWord a v).readWord a = v := by
  have high : (s.writeWord a v).readByte (a + 1) = highByte v :=
    readByte_writeByte (s := s.writeByte a (lowByte v)) (writeByte_wf hm a _) hhigh _
  have low : (s.writeWord a v).readByte a = lowByte v :=
    ((s.writeByte a (lowByte v)).readByte_writeByte_ne _ (s.physical_next_ne a).symm).trans
      (readByte_writeByte hm hlow _)
  rw [readWord, high, low, concat_high_low]

/-- A byte outside a stored word reads as before. -/
theorem State.readByte_writeWord_ne (s : State) {a b : Addr} (v : Word) (hlow : s.physical b ≠ s.physical a)
    (hhigh : s.physical b ≠ s.physical (a + 1)) : (s.writeWord a v).readByte b = s.readByte b :=
  ((s.writeByte a (lowByte v)).readByte_writeByte_ne _ hhigh).trans (s.readByte_writeByte_ne _ hlow)

/-! Operands. -/

/-- An operand stored in RAM reads back. -/
theorem State.loadVia_storeVia {s : State} (hm : Memory.wf s.mem = true) {g : SegReg} {off : Word} {w : Width}
    (hram : ∀ a ∈ s.cells g off w, s.isRam a = true) (v : BitVec w.bits) :
    (s.storeVia g off w v).loadVia g off w = v := by
  cases w with
  | byte => exact readByte_writeByte hm (hram _ (by simp [cells])) v
  | word => exact readWord_writeWord hm (hram _ (by simp [cells])) (hram _ (by simp [cells])) v

/-- Where there is no RAM a store of a byte changes no memory. -/
theorem State.writeByte_mem_of_not_ram {s : State} {a : Addr} (h : s.isRam (s.physical a) = false) (v : Byte) :
    (s.writeByte a v).mem = s.mem := by simp [h]

theorem State.storeVia_mem_of_not_ram {s : State} {g : SegReg} {off : Word} {w : Width}
    (hrom : ∀ a ∈ s.cells g off w, s.isRam a = false) (v : BitVec w.bits) : (s.storeVia g off w v).mem = s.mem := by
  cases w with
  | byte => exact writeByte_mem_of_not_ram (hrom _ (by simp [cells])) v
  | word =>
    exact (writeByte_mem_of_not_ram (s := s.writeByte _ (lowByte v)) (hrom _ (by simp [cells])) _).trans
      (writeByte_mem_of_not_ram (hrom _ (by simp [cells])) _)

theorem State.sameMemory_writeByte (s : State) (a : Addr) (v : Byte) :
    s.SameMemory (s.writeByte a v) [s.physical a] := by
  intro l hl
  exact s.read_writeByte_ne v (by simpa using hl)

/-- A store changes no byte outside the operand. -/
theorem State.sameMemory_storeVia (s : State) (g : SegReg) (off : Word) (w : Width) (v : BitVec w.bits) :
    s.SameMemory (s.storeVia g off w v) (s.cells g off w) := by
  cases w with
  | byte => exact s.sameMemory_writeByte _ v
  | word =>
    intro l hl
    simp only [cells, List.mem_cons, List.not_mem_nil, or_false, not_or] at hl
    exact ((s.writeByte _ (lowByte v)).read_writeByte_ne _ hl.2).trans (s.read_writeByte_ne _ hl.1)

/-- Words at different offsets of the same parity have no byte in common. -/
theorem State.loadVia_storeVia_ne (s : State) (g : SegReg) {off q : Word} (hne : q ≠ off)
    (hparity : q.toNat % 2 = off.toNat % 2) (v : Word) :
    (s.storeVia g off .word v).loadVia g q .word = s.loadVia g q .word := by
  have hoff := g.address_mod off
  have hoff' := g.next_address_mod off
  have hq := g.address_mod q
  have hq' := g.next_address_mod q
  have hne' : q.toNat ≠ off.toNat := fun e => hne (BitVec.eq_of_toNat_eq e)
  have hqlt := q.isLt
  have hofflt := off.isLt
  have hhigh : (s.storeVia g off .word v).readByte (g.base + zeroExtend24 q + 1) =
      s.readByte (g.base + zeroExtend24 q + 1) :=
    s.readByte_writeWord_ne v (physical_ne (by omega)) (physical_ne (by omega))
  have hlow : (s.storeVia g off .word v).readByte (g.base + zeroExtend24 q) = s.readByte (g.base + zeroExtend24 q) :=
    s.readByte_writeWord_ne v (physical_ne (by omega)) (physical_ne (by omega))
  simp only [loadVia, readWord, hhigh, hlow]

/-! Stack frames. The word pushed k-th lies at `sp - (2k + 2)`. -/

theorem frameOffset_succ (sp : Word) (k : Nat) :
    sp - 2 - BitVec.ofNat 16 (2 * k + 2) = sp - BitVec.ofNat 16 (2 * (k + 1) + 2) := by
  apply BitVec.eq_of_toNat_eq
  simp only [BitVec.toNat_sub, BitVec.ofNat_eq_ofNat, BitVec.toNat_ofNat]
  omega

theorem frameOffset_parity (sp : Word) (k : Nat) : (sp - BitVec.ofNat 16 (2 * k + 2)).toNat % 2 = sp.toNat % 2 := by
  simp only [BitVec.toNat_sub, BitVec.toNat_ofNat]
  omega

/-- Up to a whole segment of words lie at different offsets. -/
theorem frameOffset_ne (sp : Word) {k : Nat} (h : k + 1 < 2 ^ 15) : sp ≠ sp - BitVec.ofNat 16 (2 * k + 2) := by
  intro e
  have := congrArg BitVec.toNat e
  simp only [BitVec.toNat_sub, BitVec.toNat_ofNat] at this
  have := sp.isLt
  omega

/-- The cells of a frame are those of its first word and those of the frame below. -/
theorem State.frameCells_succ (s : State) (g : SegReg) (sp : Word) (n : Nat) :
    s.frameCells g sp (n + 1) = s.cells g (sp - 2) .word ++ s.frameCells g (sp - 2) n := by
  simp only [frameCells, List.range_succ_eq_map, List.flatMap_cons, List.flatMap_map, frameOffset_succ]
  rfl

/-- A frame that starts below a word leaves it. -/
theorem State.loadVia_writeFrame_ne (s : State) (g : SegReg) (q sp : Word) (words : List Word)
    (hparity : q.toNat % 2 = sp.toNat % 2) (hne : ∀ k < words.length, q ≠ sp - BitVec.ofNat 16 (2 * k + 2)) :
    (s.writeFrame g sp words).loadVia g q .word = s.loadVia g q .word := by
  induction words generalizing s sp with
  | nil => rfl
  | cons v rest ih =>
    have hpar : q.toNat % 2 = (sp - 2).toNat % 2 := hparity.trans (frameOffset_parity sp 0).symm
    have hbelow : ∀ k < rest.length, q ≠ sp - 2 - BitVec.ofNat 16 (2 * k + 2) := by
      intro k hk
      rw [frameOffset_succ]
      exact hne (k + 1) (Nat.succ_lt_succ hk)
    exact (ih (s.storeVia g (sp - 2) .word v) (sp - 2) hpar hbelow).trans
      (s.loadVia_storeVia_ne g (hne 0 (Nat.zero_lt_succ _)) hpar v)

theorem State.cells_storeVia (s : State) (g : SegReg) (o : Word) (w : Width) (v : BitVec w.bits) (h : SegReg)
    (off : Word) (u : Width) : (s.storeVia g o w v).cells h off u = s.cells h off u := by
  cases w <;> cases u <;> rfl

theorem State.frameCells_storeVia (s : State) (g : SegReg) (o : Word) (w : Width) (v : BitVec w.bits) (h : SegReg)
    (sp : Word) (n : Nat) : (s.storeVia g o w v).frameCells h sp n = s.frameCells h sp n := by
  simp only [frameCells, cells_storeVia]

theorem State.isRam_storeVia (s : State) (g : SegReg) (o : Word) (w : Width) (v : BitVec w.bits) (l : Nat) :
    (s.storeVia g o w v).isRam l = s.isRam l := by simp only [isRam, storeVia_board]

/-- The words of a frame in RAM read back. -/
theorem State.loadVia_writeFrame {s : State} (hm : Memory.wf s.mem = true) (g : SegReg) (sp : Word) (words : List Word)
    (hlen : words.length ≤ 2 ^ 15) (hram : ∀ a ∈ s.frameCells g sp words.length, s.isRam a = true) (k : Nat)
    (h : k < words.length) :
    (s.writeFrame g sp words).loadVia g (sp - BitVec.ofNat 16 (2 * k + 2)) .word = words[k] := by
  induction words generalizing s sp k with
  | nil => exact absurd h (Nat.not_lt_zero k)
  | cons v rest ih =>
    rw [List.length_cons] at hlen h
    simp only [List.length_cons, frameCells_succ, List.mem_append] at hram
    cases k with
    | zero =>
      have hbelow : ∀ j < rest.length, sp - 2 ≠ sp - 2 - BitVec.ofNat 16 (2 * j + 2) :=
        fun j hj => frameOffset_ne (sp - 2) (by omega)
      exact ((s.storeVia g (sp - 2) .word v).loadVia_writeFrame_ne g (sp - 2) (sp - 2) rest rfl hbelow).trans
        (loadVia_storeVia hm (fun a ha => hram a (.inl ha)) v)
    | succ k =>
      rw [← frameOffset_succ]
      refine ih (storeVia_wf hm g (sp - 2) .word v) (sp - 2) (by omega) (fun a ha => ?_) k (by omega)
      rw [frameCells_storeVia] at ha
      rw [isRam_storeVia]
      exact hram a (.inr ha)

/-- Settles O11, from the canonical form, the rules of one operand and those of a frame. -/
theorem storeThenLoad : Obligations.StoreThenLoad := by
  refine ⟨fun m m' hm hm' h => Memory.eq_of_read_eq hm hm' h, fun s g hm => ⟨fun off w v => ?_, ?_⟩⟩
  · exact ⟨fun hram => State.loadVia_storeVia hm hram v, fun hrom => State.storeVia_mem_of_not_ram hrom v,
      s.sameMemory_storeVia g off w v⟩
  · exact State.loadVia_writeFrame hm g

end Sys2Proof.Machine

/-! How the effect of an instruction that completes or raises an exception becomes its outcome (60_exceptions.md R502),
and which accesses to operands stop it (20_memory.md R80 to R83, R110 to R112). -/

namespace Sys2Proof.Machine

/-! From the effect to the instruction. -/

/-- An instruction completes in the state its effect ends in. -/
theorem State.Ready.completes {i : Instr} {m : M Unit} {s t : State} (hs : s.Ready) (hi : exec i s = perform m s)
    (hm : m s = .ok () t) : exec i s = .next t.endInstruction := hi.trans (perform_ok hs.1 hs.2 hm)

/-- An instruction raises the exception its effect stops with. Vector 16 alone is taken as an interrupt. -/
theorem State.Ready.raises {i : Instr} {m : M Unit} {s : State} {v : Byte} {e : Option Word} (hs : s.Ready)
    (hi : exec i s = perform m s) (hv : v ≠ 16) (hm : m s = .error (.exc v e) s) : Raises i s v e := by
  unfold Raises
  rw [hi, perform_eq hs.1 hs.2, hm, settle_exc e s hv]

/-! The shared operations where their test fails. -/

theorem readRm_error {rm : Rm} {w : Width} {s : State} {e : Stop} (h : s.rmStop rm w false = some e) :
    readRm rm w s = .error e s := by rw [readRm_eq, h]

theorem writeRm_error {rm : Rm} {w : Width} {s : State} {e : Stop} (h : s.rmStop rm w true = some e)
    (v : BitVec w.bits) : writeRm rm w v s = .error e s := by rw [writeRm_eq, h]

theorem segRead_error {r : SReg} {off : Word} {w : Width} {s : State} {e : Stop}
    (h : s.accessStop r off w false = some e) : segRead r off w s = .error e s := by rw [segRead_eq, h]

theorem segWrite_error {r : SReg} {off : Word} {w : Width} {s : State} {e : Stop}
    (h : s.accessStop r off w true = some e) (v : BitVec w.bits) : segWrite r off w v s = .error e s := by
  rw [segWrite_eq, h]

theorem readPointer_error {m : MemOp} {s : State} {e : Stop} (h : s.wordsStop m 2 false = some e) :
    readPointer m s = .error e s := by rw [readPointer_eq, h]

theorem pop16_error {s : State} {e : Stop} (h : s.accessStop .ss (s.reg SP) .word false = some e) :
    pop16 s = .error e s := by rw [pop16_eq, h]

/-- In real mode no push stops with an exception. -/
theorem State.protected_of_pushStop {s : State} {t : Word} {v : Byte} {e : Option Word}
    (h : s.pushStop t = some (.exc v e)) : s.msw.pe = true := by
  by_contra hpe
  rw [Bool.not_eq_true] at hpe
  by_cases ht : t = 65535#16 <;> simp [pushStop, accessStop, segmentStop, hpe, ht] at h

theorem pushOperand_error {s : State} {v : Byte} {e : Option Word} (h : s.pushStop (s.reg SP - 2) = some (.exc v e))
    (x : Word) : pushOperand x s = .error (.exc v e) s := by
  simp only [pushOperand, look_bind, State.protected_of_pushStop h, Bool.not_true, Bool.false_and, Bool.false_eq_true,
    ↓reduceIte]
  rw [push16_eq, h]

/-- In protected mode the test of a POP is that of the word on top of the stack. -/
theorem checkPop_error {s : State} {e : Stop} (hpe : s.msw.pe = true)
    (h : s.accessStop .ss (s.reg SP) .word false = some e) : checkPop s = .error e s := by
  simp only [checkPop, look_bind, hpe, Bool.not_true, Bool.false_and, Bool.false_eq_true, ↓reduceIte]
  exact check_some h

/-! No operand access raises vector 16. -/

theorem State.accessStop_exc {s : State} {r : SReg} {off : Word} {w : Width} {write : Bool} {v : Byte}
    {e : Option Word} (h : s.accessStop r off w write = some (.exc v e)) : v ≠ 16 := by
  rcases segmentStop_exc h with rfl | rfl <;> decide

theorem State.rmStop_exc {s : State} {rm : Rm} {w : Width} {write : Bool} {v : Byte} {e : Option Word}
    (h : s.rmStop rm w write = some (.exc v e)) : v ≠ 16 := by
  cases rm with
  | reg r => cases h
  | mem m => exact accessStop_exc h

theorem State.wordsStop_exc {s : State} {m : MemOp} {count : Nat} {write : Bool} {v : Byte} {e : Option Word}
    (h : s.wordsStop m count write = some (.exc v e)) : v ≠ 16 := by
  induction count with
  | zero => cases h
  | succ k ih =>
    unfold wordsStop at h
    cases hk : s.wordsStop m k write with
    | some x =>
      rw [hk] at h
      cases h
      exact ih hk
    | none =>
      rw [hk] at h
      exact accessStop_exc h

theorem State.pushStop_exc {s : State} {t : Word} {v : Byte} {e : Option Word} (h : s.pushStop t = some (.exc v e)) :
    v ≠ 16 := by
  unfold pushStop at h
  split at h
  · cases h
  · exact accessStop_exc h

/-! Addresses and access tests. -/

/-- The base of a real-mode segment is its selector times 16. -/
theorem realSegReg_base (sel : Word) : (realSegReg sel).base = BitVec.ofNat 24 (16 * sel.toNat) := by
  apply BitVec.eq_of_toNat_eq
  have := sel.isLt
  simp only [realSegReg, BitVec.toNat_shiftLeft, BitVec.toNat_setWidth, BitVec.toNat_ofNat, Nat.shiftLeft_eq]
  omega

theorem realSegReg_address (sel off : Word) :
    ((realSegReg sel).base + zeroExtend24 off).toNat = 16 * sel.toNat + off.toNat := by
  have := sel.isLt
  have := off.isLt
  simp only [realSegReg_base, BitVec.toNat_add, BitVec.toNat_setWidth, BitVec.toNat_ofNat]
  omega

/-- In real mode only a word at offset 0xFFFF may not be accessed. -/
theorem State.accessStop_real {s : State} (h : s.msw.pe = false) (r : SReg) (off : Word) (w : Width) (write : Bool) :
    s.accessStop r off w write = if w = .word ∧ off = 0xFFFF then some (.exc 13 none) else none := by
  simp [accessStop, segmentStop, h]

/-- Whether the access rights allow a write or a read. -/
def Rights.allow (g : Rights) (write : Bool) : Bool := if write then g.writable else g.readable

/-- The exception of an access that leaves its segment: StackFault(0) through SS, else GeneralProtection(0). -/
def outsideStop (r : SReg) : Stop := .exc (if r = .ss then 12 else 13) (some 0)

/-- In protected mode the tests of an access in their order: a usable register, its rights, its limit, the end of the
physical space. -/
theorem State.accessStop_protected {s : State} (h : s.msw.pe = true) (r : SReg) (off : Word) (w : Width)
    (write : Bool) : s.accessStop r off w write =
      if (s.seg r).rights = .null then some (outsideStop r)
      else if (s.seg r).rights.allow write = false then some (generalProtection 0)
      else if (s.seg r).inLimit off w.bytes = false then some (outsideStop r)
      else if w = .word ∧ (s.seg r).base + zeroExtend24 off = 0xFFFFFF then some (.fault .physicalOverrun)
      else none := by
  have hout : (if (r == .ss) = true then stackFault 0 else generalProtection 0) = outsideStop r := by cases r <;> rfl
  have htop (a : Addr) : s.crossesTop a 1 = true ↔ a = 0xFFFFFF := by simp [crossesTop, h]
  unfold accessStop segmentStop
  simp only [hout, htop, h, Bool.not_true, Bool.false_eq_true, ↓reduceIte, Bool.not_eq_true', Rights.allow]
  congr

theorem State.accessStop_null {s : State} (h : s.msw.pe = true) {r : SReg} (hg : (s.seg r).rights = .null) (off : Word)
    (w : Width) (write : Bool) : s.accessStop r off w write = some (outsideStop r) := by
  rw [accessStop_protected h, if_pos hg]

section
variable {s : State} (h : s.msw.pe = true) {r : SReg} (hg : (s.seg r).rights ≠ .null) {off : Word} {w : Width}
  {write : Bool}
include h hg

theorem State.accessStop_denied (ha : (s.seg r).rights.allow write = false) :
    s.accessStop r off w write = some (generalProtection 0) := by
  rw [accessStop_protected h, if_neg hg, if_pos ha]

theorem State.accessStop_outside (ha : (s.seg r).rights.allow write = true)
    (hl : (s.seg r).inLimit off w.bytes = false) : s.accessStop r off w write = some (outsideStop r) := by
  rw [accessStop_protected h, if_neg hg, if_neg (by simp [ha]), if_pos hl]

theorem State.accessStop_inside (ha : (s.seg r).rights.allow write = true)
    (hl : (s.seg r).inLimit off w.bytes = true) (ht : ¬(w = .word ∧ (s.seg r).base + zeroExtend24 off = 0xFFFFFF)) :
    s.accessStop r off w write = none := by
  rw [accessStop_protected h, if_neg hg, if_neg (by simp [ha]), if_neg (by simp [hl]), if_neg ht]

end

/-- A register loaded in real mode may be read and written. -/
theorem Rights.allow_real (write : Bool) : Rights.real.allow write = true := by cases write <;> rfl

/-- A segment may be written if it is writable data, and read if it is data or readable code. -/
theorem Rights.allow_descr (ar : Byte) (write : Bool) :
    (Rights.descr ar).allow write = true ↔
      if write then ar.getLsbD 3 = false ∧ ar.getLsbD 1 = true else ar.getLsbD 3 = false ∨ ar.getLsbD 1 = true := by
  cases write <;> simp [allow, readable, writable]

theorem SegReg.inLimit_real {g : SegReg} (hg : g.rights = .real) (off : Word) (bytes : Nat) :
    g.inLimit off bytes = true ↔ off.toNat + bytes - 1 ≤ g.limit.toNat := by
  simp [inLimit, hg, Rights.expandDown]

/-- The offsets of an expand-down data segment lie above its limit, those of every other segment up to it. -/
theorem SegReg.inLimit_descr {g : SegReg} {ar : Byte} (hg : g.rights = .descr ar) (off : Word) (bytes : Nat) :
    g.inLimit off bytes = true ↔
      if ar.getLsbD 3 = false ∧ ar.getLsbD 2 = true then g.limit.toNat < off.toNat ∧ off.toNat + bytes - 1 ≤ 0xFFFF
      else off.toNat + bytes - 1 ≤ g.limit.toNat := by
  by_cases hd : ar.getLsbD 3 = false ∧ ar.getLsbD 2 = true
  · simp [inLimit, hg, Rights.expandDown, hd]
  · have hexpand : (Rights.descr ar).expandDown = false := by simpa [Rights.expandDown] using hd
    rw [if_neg hd]
    simp [inLimit, hg, hexpand]


theorem physical_realSegReg (s : State) (sel off : Word) (h : s.msw.pe = false) :
    s.physical ((realSegReg sel).base + zeroExtend24 off) =
      if s.board.a20A23Ignored then (16 * sel.toNat + off.toNat) % 2 ^ 20 else 16 * sel.toNat + off.toNat := by
  rw [State.physical, realSegReg_address]
  cases s.board.a20A23Ignored <;> simp [h]

end Sys2Proof.Machine

/-! Which operand accesses are exceptions, and that an instruction raises them with the state unchanged (20_memory.md
R80 to R83, R110 to R112, 30_encoding.md R161, 40_data_transfer.md R200). -/

namespace Sys2Proof.Machine

/-! Which accesses of protected mode stop, by the access rights of the register. -/

section
variable {s : State} (h : s.msw.pe = true) {r : SReg} {off : Word} {w : Width} {write : Bool}
include h

/-- A register loaded in real mode is only limited. -/
theorem State.accessStop_realRights (hg : (s.seg r).rights = .real) :
    ((s.seg r).limit.toNat < off.toNat + w.bytes - 1 → s.accessStop r off w write = some (outsideStop r)) ∧
    (off.toNat + w.bytes - 1 ≤ (s.seg r).limit.toNat → ¬(w = .word ∧ (s.seg r).base + zeroExtend24 off = 0xFFFFFF) →
      s.accessStop r off w write = none) := by
  have hn : (s.seg r).rights ≠ .null := by simp [hg]
  have ha : (s.seg r).rights.allow write = true := by rw [hg, Rights.allow_real]
  refine ⟨fun hl => accessStop_outside h hn ha ?_, fun hl => accessStop_inside h hn ha ?_⟩
  · rw [← Bool.not_eq_true, SegReg.inLimit_real hg]
    exact Nat.not_le.mpr hl
  · rwa [SegReg.inLimit_real hg]

/-- A register loaded from a descriptor: its rights are tested first, then its limit. -/
theorem State.accessStop_descr {ar : Byte} (hg : (s.seg r).rights = .descr ar) {allowed inside : Prop}
    (hallowed : allowed ↔ (Rights.descr ar).allow write = true)
    (hinside : inside ↔ (s.seg r).inLimit off w.bytes = true) :
    (¬allowed → s.accessStop r off w write = some (generalProtection 0)) ∧
    (allowed → ¬inside → s.accessStop r off w write = some (outsideStop r)) ∧
    (allowed → inside → ¬(w = .word ∧ (s.seg r).base + zeroExtend24 off = 0xFFFFFF) →
      s.accessStop r off w write = none) := by
  have hn : (s.seg r).rights ≠ .null := by simp [hg]
  rw [hallowed, hinside, Bool.not_eq_true, Bool.not_eq_true, ← hg]
  exact ⟨accessStop_denied h hn, accessStop_outside h hn, accessStop_inside h hn⟩

end

/-! Instructions whose operand access is an exception. -/

section
variable {s : State} {v : Byte} {e : Option Word} (hs : s.Ready)
include hs

/-- An instruction that begins with the test of its operand. -/
theorem State.Ready.raises_of_check {i : Instr} {c : State → Option Stop} {f : Unit → M Unit}
    (hi : exec i s = perform (check c >>= f) s) (hv : v ≠ 16) (hc : c s = some (.exc v e)) : Raises i s v e :=
  hs.raises hi hv (bind_error (check_some hc))

/-- An instruction that begins by reading r/m. -/
theorem State.Ready.raises_of_readRm {i : Instr} {rm : Rm} {w : Width} {f : BitVec w.bits → M Unit}
    (hi : exec i s = perform (readRm rm w >>= f) s) (h : s.rmStop rm w false = some (.exc v e)) : Raises i s v e :=
  hs.raises hi (State.rmStop_exc h) (bind_error (readRm_error h))

/-- An instruction that writes a value into r/m. -/
theorem State.Ready.raises_of_writeRm {i : Instr} {rm : Rm} {w : Width} {f : State → BitVec w.bits}
    (hi : exec i s = perform (look f >>= writeRm rm w) s) (h : s.rmStop rm w true = some (.exc v e)) :
    Raises i s v e :=
  hs.raises hi (State.rmStop_exc h) (writeRm_error h (f s))

/-- An instruction that begins by reading a far pointer, or the two bounds. -/
theorem State.Ready.raises_of_readPointer {i : Instr} {m : MemOp} {f : Word × Word → M Unit}
    (hi : exec i s = perform (readPointer m >>= f) s) (h : s.wordsStop m 2 false = some (.exc v e)) : Raises i s v e :=
  hs.raises hi (State.wordsStop_exc h) (bind_error (readPointer_error h))

/-- An instruction that pushes a value of the state. -/
theorem State.Ready.raises_of_push {i : Instr} {f : State → Word}
    (hi : exec i s = perform (look f >>= pushOperand) s) (h : s.pushStop (s.reg SP - 2) = some (.exc v e)) :
    Raises i s v e :=
  hs.raises hi (State.pushStop_exc h) (pushOperand_error h (f s))

end

/-- Settles O13: the tests of an access in their order, and for each instruction the access its effect begins with. -/
theorem operandAddressing : Obligations.OperandAddressing := by
  refine ⟨physical_realSegReg, fun s r off w write => ?_, fun s rm m w r k sr x v e hs => ?_⟩
  · refine ⟨fun h => State.accessStop_real h r off w write, fun h => ⟨fun hg => ?_, fun hg => ?_, fun ar hg => ?_⟩⟩
    · exact State.accessStop_null h hg off w write
    · exact State.accessStop_realRights h hg
    · exact State.accessStop_descr h hg (Rights.allow_descr ar write).symm (SegReg.inLimit_descr hg off w.bytes).symm
  · simp only [List.mem_cons, List.not_mem_nil, or_false]
    refine ⟨fun h i hi => ?_, fun h i hi => ?_, fun h => ?_, fun h => ?_, fun h => ⟨fun hcs => ?_, fun i hi => ?_⟩,
      fun off => ⟨fun h => ?_, fun h => ?_⟩, fun h i hi => ?_, fun h i hi => ?_, fun hpe h i hi => ?_⟩
    · -- the destination is r/m
      have hv := State.rmStop_exc h
      rcases hi with rfl | hi
      · exact hs.raises_of_writeRm rfl h
      · rcases hi with rfl | rfl | rfl | rfl | rfl | rfl | rfl | rfl | rfl | rfl | rfl | rfl | rfl | rfl | rfl | rfl |
          rfl | rfl | rfl <;> exact hs.raises_of_check rfl hv h
    · -- r/m is only read: by MOV, by the two-operand instructions, by multiply and divide
      have hv := State.rmStop_exc h
      rcases hi with rfl | rfl | rfl | rfl | rfl | rfl | rfl | rfl | rfl | rfl | rfl | hi
      · exact hs.raises_of_readRm rfl h
      iterate 10 exact hs.raises_of_check rfl hv h
      rcases hi with rfl | rfl | rfl | rfl <;> exact hs.raises_of_readRm rfl h
    · exact hs.raises rfl (State.rmStop_exc h) (writeRm_error h _)
    · exact hs.raises_of_writeRm rfl h
    · exact hs.raises_of_readRm (if_neg hcs) h
    · rcases hi with rfl | rfl | rfl <;> exact hs.raises_of_readRm rfl h
    · exact hs.raises rfl (State.accessStop_exc h) (segWrite_error h _)
    · exact hs.raises rfl (State.accessStop_exc h) (bind_error (segRead_error h))
    · rcases hi with rfl | rfl | rfl | rfl | rfl <;> exact hs.raises_of_readPointer rfl h
    · rcases hi with rfl | rfl | rfl <;> exact hs.raises_of_push rfl h
    · have hv := State.accessStop_exc h
      rcases hi with rfl | rfl | rfl | rfl
      · exact hs.raises rfl hv (bind_error (checkPop_error hpe h))
      · exact hs.raises rfl hv (bind_error (pop16_error h))
      · exact hs.raises rfl hv (bind_error (segRead_error h))
      · exact hs.raises rfl hv (bind_error (segRead_error h))

end Sys2Proof.Machine

/-! PUSH, PUSHF and POP (20_memory.md R86, R87, 40_data_transfer.md R209 to R215, R230), and what the updates they are
made of leave unchanged. -/

namespace Sys2Proof.Machine

/-! What is unchanged over two updates, and over the writes of a register and of r/m. -/

theorem State.SameRegs.trans {s t u : State} {l l' : List Reg} (h : s.SameRegs t l) (h' : t.SameRegs u l') :
    s.SameRegs u (l ++ l') := by
  intro r hr
  rw [List.mem_append, not_or] at hr
  exact (h' r hr.2).trans (h r hr.1)

theorem State.SameMemory.trans {s t u : State} {l l' : List Nat} (h : s.SameMemory t l) (h' : t.SameMemory u l') :
    s.SameMemory u (l ++ l') := by
  intro a ha
  rw [List.mem_append, not_or] at ha
  exact (h' a ha.2).trans (h a ha.1)

theorem State.sameRegs_setReg (s : State) (r : Reg) (v : Word) : s.SameRegs (s.setReg r v) [r] :=
  fun _ hq => s.setReg_reg_ne v (List.ne_of_not_mem_cons hq)

theorem State.sameRegs_setRm (s : State) (rm : Rm) (w : Width) (v : BitVec w.bits) :
    s.SameRegs (s.setRm rm w v) (rmRegs rm w) := by
  cases rm with
  | mem m => exact fun q _ => s.reg_setMem m 0 w v q
  | reg r =>
    cases w with
    | byte => exact fun _ hq => s.setReg8_reg_ne v (List.ne_of_not_mem_cons hq)
    | word => exact s.sameRegs_setReg r v

theorem State.sameMemory_setRm (s : State) (rm : Rm) (w : Width) (v : BitVec w.bits) :
    s.SameMemory (s.setRm rm w v) (s.rmCells rm w) := by
  cases rm with
  | mem m =>
    have h := s.sameMemory_storeVia (s.seg (s.eaSeg m)) (s.ea m + 0) w v
    have hea : s.ea m + 0 = s.ea m := BitVec.add_zero _
    nth_rw 2 [hea] at h
    exact h
  | reg r => exact fun a _ => congrArg (Memory.read · a) (s.putReg_mem w r v)

/-! SP is no part of an effective address (30_encoding.md R158). -/

theorem State.ea_setReg_SP (s : State) (v : Word) (m : MemOp) : (s.setReg SP v).ea m = s.ea m := by
  have hbase (rm : Reg) : (s.setReg SP v).baseIndex rm = s.baseIndex rm := by
    have hreg (q : Reg) (hq : q ≠ SP) : (s.setReg SP v).reg q = s.reg q := s.setReg_reg_ne v hq
    unfold baseIndex
    rw [hreg BX (by decide), hreg BP (by decide), hreg SI (by decide), hreg DI (by decide)]
  cases m with
  | base rm => exact hbase rm
  | base8 rm disp => exact congrArg (· + signExtend16 disp) (hbase rm)
  | base16 rm disp => exact congrArg (· + disp) (hbase rm)
  | direct disp => rfl

theorem State.rmCells_mem (s : State) (m : MemOp) (w : Width) :
    s.rmCells (.mem m) w = s.cells (s.seg (s.eaSeg m)) (s.ea m) w := rfl

theorem State.rmCells_setReg_SP (s : State) (v : Word) (rm : Rm) (w : Width) :
    (s.setReg SP v).rmCells rm w = s.rmCells rm w := by
  cases rm with
  | reg r => rfl
  | mem m =>
    rw [rmCells_mem, rmCells_mem, ea_setReg_SP, seg_setReg]
    cases w <;> rfl

/-! PUSH. -/

theorem readRm_ok {rm : Rm} {w : Width} {s : State} (h : s.rmStop rm w false = none) :
    readRm rm w s = .ok (s.rmValue rm w) s := by rw [readRm_eq, h]

/-- An instruction that pushes one word which may be pushed. -/
theorem State.Ready.pushes {i : Instr} {m : M Unit} {s : State} {v : Word} (hs : s.Ready)
    (hpush : s.pushStop (s.reg SP - 2) = none) (hi : exec i s = perform m s) (hm : m s = pushOperand v s) :
    Pushes i s v :=
  ⟨hs.completes hi (hm.trans (pushOperand_eq v hpush)),
    fun r hr => ((s.store .ss (s.reg SP - 2) .word v).sameRegs_setReg SP _ r hr).trans (s.reg_store ..),
    s.sameMemory_storeVia s.ss (s.reg SP - 2) .word v⟩

/-- The free word of a push that wraps lies at offsets 0xFFFF and 0x0000. -/
theorem State.sameMemory_freeStackWord (s : State) (n : Nat) :
    s.SameMemory (s.freeStackWord 0xFFFF n) (s.cells s.ss 0xFFFF .byte ++ s.cells s.ss 0x0000 .byte) :=
  (s.sameMemory_storeVia s.ss 0xFFFF .byte _).trans (State.sameMemory_storeVia _ s.ss 0x0000 .byte _)

/-- An instruction that pushes one word at SP = 1 in real mode. -/
theorem State.Ready.shutsDown {i : Instr} {m : M Unit} {s : State} {v : Word} (hs : s.Ready) (hpe : s.msw.pe = false)
    (hsp : s.reg SP = 1) (hi : exec i s = perform m s) (hm : m s = pushOperand v s) : ShutsDownPushing i s := by
  have hnext := hi.trans (perform_eq hs.1 hs.2)
  rw [hm, pushOperand_wraps v hpe hsp, settle_shutdown] at hnext
  exact ⟨_, hnext, State.sameRegs_setReg _ SP _,
    State.sameMemory_freeStackWord { s with free := s.free + 2 } s.free, rfl⟩

/-! POP. -/

/-- POP of a register: SP plus 2 first, so that POP SP leaves the word popped. -/
theorem execPopReg_ok {s : State} (hs : s.Ready) (h : s.accessStop .ss (s.reg SP) .word false = none) (r : Reg) :
    exec (.popReg r) s =
      .next ((s.setReg SP (s.reg SP + 2)).setReg r (s.load .ss (s.reg SP) .word)).endInstruction :=
  hs.completes rfl (bind_ok (checkPop_eq h))

/-- POP of r/m: the destination is tested before SP changes. -/
theorem execPopRm_ok {s : State} (hs : s.Ready) (h : s.accessStop .ss (s.reg SP) .word false = none) {rm : Rm}
    (hrm : s.rmStop rm .word true = none) :
    exec (.popRm rm) s =
      .next ((s.setReg SP (s.reg SP + 2)).setRm rm .word (s.load .ss (s.reg SP) .word)).endInstruction :=
  hs.completes rfl ((bind_ok (checkPop_eq h)).trans (bind_ok (check_none hrm)))

/-- Settles O17: every form of PUSH is one push of its operand, and POP is two writes of registers or of r/m. -/
theorem pushPopWord : Obligations.PushPopWord := by
  refine ⟨fun s hs hpush => ⟨fun rm hrm => ?_, fun r => ?_, fun sr => ?_, fun v => ?_, fun v => ?_, ?_⟩,
    fun s hs hpe hsp => ⟨fun rm hrm => ?_, fun r => ?_, fun sr => ?_, fun v => ?_, ?_⟩,
    fun s hs h => ⟨fun r => ?_, fun rm hrm => ?_⟩⟩
  · exact hs.pushes hpush rfl (bind_ok (readRm_ok hrm))
  · exact hs.pushes hpush rfl rfl
  · exact hs.pushes hpush rfl rfl
  · exact hs.pushes hpush rfl rfl
  · exact hs.pushes hpush rfl rfl
  · exact hs.pushes hpush rfl rfl
  · exact hs.shutsDown hpe hsp rfl (bind_ok (readRm_ok hrm))
  · exact hs.shutsDown hpe hsp rfl (v := s.reg r) rfl
  · exact hs.shutsDown hpe hsp rfl (v := (s.seg sr).sel) rfl
  · exact hs.shutsDown hpe hsp rfl (v := sxValue v) rfl
  · exact hs.shutsDown hpe hsp rfl (v := s.flags.image) rfl
  · exact ⟨execPopReg_ok hs h r, (s.sameRegs_setReg SP _).trans (State.sameRegs_setReg _ r _), fun _ _ => rfl⟩
  · refine ⟨execPopRm_ok hs h hrm, (s.sameRegs_setReg SP _).trans (State.sameRegs_setRm _ rm .word _), ?_⟩
    rw [← s.rmCells_setReg_SP (s.reg SP + 2)]
    exact (s.setReg SP (s.reg SP + 2)).sameMemory_setRm rm .word _

end Sys2Proof.Machine

/-! Loads of DS, ES and SS (20_memory.md R82, R115, R116, R119, 40_data_transfer.md R207, R216, R226, R227): the test of
the selector said once, and MOV, POP, LDS and LES as the same load with a different rest. -/

namespace Sys2Proof.Machine

/-! The load in protected mode, by what the selector names. -/

theorem loadSeg_protected {s : State} (h : s.msw.pe = true) (sr : SReg) (sel : Word) :
    loadSeg sr sel s = (if sr = .ss then loadStackSeg sel else loadDataSeg sr sel) s := by
  simp only [loadSeg, look_bind, h, Bool.not_true, Bool.false_eq_true, ↓reduceIte]

theorem loadSeg_null_ss {s : State} (h : s.msw.pe = true) {sel : Word} (hsel : sel &&& 0xFFFC = 0) :
    loadSeg .ss sel s = .error (generalProtection 0) s := by
  rw [loadSeg_protected h, if_pos rfl]
  exact bind_error (require_false (by simp [(isNull_iff sel).mpr hsel]))

theorem loadSeg_null_data {s : State} (h : s.msw.pe = true) {sr : SReg} (hsr : sr ≠ .ss) {sel : Word}
    (hsel : sel &&& 0xFFFC = 0) : loadSeg sr sel s = .ok () (s.setSeg sr ((s.seg sr).nulled sel)) := by
  rw [loadSeg_protected h, if_neg hsr, loadDataSeg, if_pos ((isNull_iff sel).mpr hsel)]
  rfl

/-- A selector that is not null has its descriptor read. -/
theorem loadStackSeg_bind {s : State} {sel : Word} (hsel : sel &&& 0xFFFC ≠ 0) :
    loadStackSeg sel s = (readDescriptor sel (generalProtection (errSel sel)) >>= fun d => do
      require (fun s => selectorRpl sel == s.cpl) (generalProtection (errSel sel))
      require (fun _ => d.isWritableData) (generalProtection (errSel sel))
      require (fun s => d.dpl == s.cpl) (generalProtection (errSel sel))
      require (fun _ => d.present) (stackFault (errSel sel))
      update fun s => s.loadFrom .ss sel d) s :=
  bind_ok (require_true (by simp [isNull_false hsel]))

theorem loadDataSeg_bind {sr : SReg} {sel : Word} (hsel : sel &&& 0xFFFC ≠ 0) :
    loadDataSeg sr sel = (readDescriptor sel (generalProtection (errSel sel)) >>= fun d => do
      require (fun _ => d.isReadable) (generalProtection (errSel sel))
      require (fun s => d.isConforming || s.epl sel ≤ d.dpl) (generalProtection (errSel sel))
      require (fun _ => d.present) (notPresent (errSel sel))
      update fun s => s.loadFrom sr sel d) :=
  if_neg (by simp [isNull_false hsel])

/-- A selector outside its table. -/
theorem loadSeg_outside {s : State} (h : s.msw.pe = true) (sr : SReg) {sel : Word} (hsel : sel &&& 0xFFFC ≠ 0)
    (ha : s.descriptorAddr sel = none) : loadSeg sr sel s = .error (generalProtection (errSel sel)) s := by
  have hread : readDescriptor sel (generalProtection (errSel sel)) s = .error (generalProtection (errSel sel)) s := by
    rw [readDescriptor_eq, ha]
  rw [loadSeg_protected h]
  by_cases hsr : sr = .ss
  · rw [if_pos hsr, loadStackSeg_bind hsel, bind_error hread]
  · rw [if_neg hsr, loadDataSeg_bind hsel, bind_error hread]

/-- Whether type and privilege allow a descriptor in a segment register: writable data of the level for SS, for DS and
ES data or readable code of sufficient DPL or conforming (20_memory.md R115, R116). -/
def State.mayLoad (s : State) (sr : SReg) (sel : Word) (d : Descriptor) : Prop :=
  if sr = .ss then selectorRpl sel = s.cpl ∧ d.isWritableData = true ∧ d.dpl = s.cpl
  else d.isReadable = true ∧ (d.isConforming = true ∨ s.epl sel ≤ d.dpl)

/-- A selector that names a descriptor: type and privilege first, then presence. -/
theorem loadSeg_named {s : State} (h : s.msw.pe = true) (sr : SReg) {sel : Word} {a : Addr} (ha : s.Names sel a) :
    (¬s.mayLoad sr sel (s.descriptorAt a) → loadSeg sr sel s = .error (generalProtection (errSel sel)) s) ∧
    (s.mayLoad sr sel (s.descriptorAt a) → (s.descriptorAt a).present = false →
      loadSeg sr sel s = .error (.exc (if sr = .ss then 12 else 11) (some (errSel sel))) s) ∧
    (s.mayLoad sr sel (s.descriptorAt a) → (s.descriptorAt a).present = true →
      loadSeg sr sel s = .ok () (s.loadFrom sr sel (s.descriptorAt a))) := by
  obtain ⟨hsel, haddr, htop⟩ := ha
  have hread := readDescriptor_ok (generalProtection (errSel sel)) haddr htop
  rw [loadSeg_protected h]
  by_cases hsr : sr = .ss
  · subst hsr
    simp only [if_pos, State.mayLoad, loadStackSeg_bind hsel, bind_ok hread, require_bind, update_apply, beq_iff_eq]
    refine ⟨fun hn => ?_, fun ⟨hrpl, htype, hdpl⟩ hp => ?_, fun ⟨hrpl, htype, hdpl⟩ hp => ?_⟩
    · by_cases hrpl : selectorRpl sel = s.cpl
      · by_cases htype : (s.descriptorAt a).isWritableData = true
        · rw [if_pos hrpl, if_pos htype, if_neg fun hdpl => hn ⟨hrpl, htype, hdpl⟩]
        · rw [if_pos hrpl, if_neg htype]
      · rw [if_neg hrpl]
    · simp [hrpl, htype, hdpl, hp]
    · simp [hrpl, htype, hdpl, hp]
  · simp only [if_neg hsr, State.mayLoad, loadDataSeg_bind hsel, bind_ok hread, require_bind, update_apply,
      Bool.or_eq_true, decide_eq_true_eq]
    refine ⟨fun hn => ?_, fun ⟨htype, hdpl⟩ hp => ?_, fun ⟨htype, hdpl⟩ hp => ?_⟩
    · by_cases htype : (s.descriptorAt a).isReadable = true
      · rw [if_pos htype, if_neg fun hdpl => hn ⟨htype, hdpl⟩]
      · rw [if_neg htype]
    · simp only [htype, hdpl, hp, ↓reduceIte, Bool.false_eq_true]
    · simp only [htype, hdpl, hp, ↓reduceIte]

/-! The accessed bit. -/

theorem State.readByte_congr {s t : State} (hmem : t.mem = s.mem) (hboard : t.board = s.board) (hmsw : t.msw = s.msw)
    (hticks : t.ticks = s.ticks) (a : Addr) : t.readByte a = s.readByte a := by
  simp only [readByte, byteAt, physical_congr hmsw hboard, hmem, hboard, hticks]

/-- Using a descriptor changes no byte but that of its access rights. -/
theorem State.sameMemory_setAccessed (s : State) (d : Descriptor) :
    s.SameMemory (s.setAccessed d) [s.physical (d.addr + 5)] := by
  unfold setAccessed
  split
  · exact fun _ _ => rfl
  · exact s.sameMemory_writeByte _ _

/-- A used descriptor in RAM has its accessed bit set. -/
theorem State.readByte_setAccessed {s : State} (hm : Memory.wf s.mem = true) {a : Addr}
    (hram : s.isRam (s.physical (a + 5)) = true) :
    (s.setAccessed (s.descriptorAt a)).readByte (a + 5) = (s.descriptorAt a).ar ||| 1 := by
  unfold setAccessed
  split
  case isTrue hbit =>
    have hor (b : Byte) (hb : b.getLsbD 0 = true) : b = b ||| 1 := by
      revert b
      decide
    exact hor _ hbit
  case isFalse => exact readByte_writeByte hm hram _

/-! The four instructions. -/

/-- What follows the load: a change outside memory. -/
structure OutsideMemory (rest : State → State) : Prop where
  mem : ∀ t, (rest t).mem = t.mem
  board : ∀ t, (rest t).board = t.board
  msw : ∀ t, (rest t).msw = t.msw
  ticks : ∀ t, (rest t).ticks = t.ticks

theorem outsideMemory_setReg (r : Reg) (v : Word) : OutsideMemory fun t => t.setReg r v :=
  ⟨fun _ => rfl, fun _ => rfl, fun _ => rfl, fun _ => rfl⟩

/-- `i` loads `sr` with `sel` and does `rest` after it; an exception of the load is its own. -/
structure IsSegmentLoad (i : Instr) (s : State) (sr : SReg) (sel : Word) (rest : State → State) : Prop where
  of_ok : ∀ t, loadSeg sr sel s = .ok () t → t.regs = s.regs → t.inhibitAll = s.inhibitAll →
    exec i s = .next (rest t).endInstruction
  of_error : ∀ v e, v ≠ 16 → loadSeg sr sel s = .error (.exc v e) s → Raises i s v e
  outside : OutsideMemory rest

/-- An instruction whose effect is the load and then `f`, which does what `rest` does after a load. -/
theorem State.Ready.isSegmentLoad {i : Instr} {m : M Unit} {s : State} {sr : SReg} {sel : Word} {f rest : State → State}
    (hs : s.Ready) (hi : exec i s = perform m s) (hm : m s = (loadSeg sr sel >>= fun _ => update f) s)
    (hf : ∀ t, t.regs = s.regs → t.inhibitAll = s.inhibitAll → f t = rest t) (hrest : OutsideMemory rest) :
    IsSegmentLoad i s sr sel rest where
  of_ok t ht hregs hinhibit := by
    rw [← hf t hregs hinhibit]
    exact hs.completes hi (hm.trans (bind_ok ht))
  of_error v e hv he := hs.raises hi hv (hm.trans (bind_error he))
  outside := hrest

/-- The hold-off the load of SS may leave, as the statements write it. -/
def State.held (s : State) (sr : SReg) (t : State) : State :=
  { t with inhibitAll := s.inhibitAll || (sr == .ss && Config.ssLoadInhibitsInterrupts) }

theorem State.holdOff_eq_held {s t : State} (h : t.inhibitAll = s.inhibitAll) (sr : SReg) :
    t.holdOff sr = s.held sr t := by
  rw [holdOff, held, h]

theorem outsideMemory_held (s : State) (sr : SReg) : OutsideMemory (s.held sr) :=
  ⟨fun _ => rfl, fun _ => rfl, fun _ => rfl, fun _ => rfl⟩

theorem OutsideMemory.comp {f g : State → State} (hf : OutsideMemory f) (hg : OutsideMemory g) :
    OutsideMemory fun t => f (g t) :=
  ⟨fun t => (hf.mem _).trans (hg.mem t), fun t => (hf.board _).trans (hg.board t), fun t => (hf.msw _).trans (hg.msw t),
    fun t => (hf.ticks _).trans (hg.ticks t)⟩

theorem readPointer_ok {m : MemOp} {s : State} (h : s.wordsStop m 2 false = none) :
    readPointer m s = .ok (s.memValue m 0 .word, s.memValue m 2 .word) s := by
  rw [readPointer_eq, h]
  rfl

/-- LDS and LES whose pointer may be read. -/
theorem loadPointer_eq {m : MemOp} {s : State} (h : s.wordsStop m 2 false = none) (sr : SReg) (r : Reg) :
    loadPointer sr r m s =
      (loadSeg sr (s.memValue m 2 .word) >>= fun _ => update fun t => t.setReg r (s.memValue m 0 .word)) s := by
  rw [loadPointer, bind_ok (readPointer_ok h)]

theorem isSegmentLoad_movSregRm {s : State} (hs : s.Ready) {sr : SReg} (hsr : sr ≠ .cs) {rm : Rm}
    (h : s.rmStop rm .word false = none) : IsSegmentLoad (.movSregRm sr rm) s sr (s.rmValue rm .word) (s.held sr) :=
  hs.isSegmentLoad (if_neg hsr) (bind_ok (readRm_ok h)) (fun _ _ hinhibit => State.holdOff_eq_held hinhibit sr)
    (outsideMemory_held s sr)

theorem isSegmentLoad_popSreg {s : State} (hs : s.Ready) {sr : SReg} (hsr : sr ≠ .cs)
    (h : s.accessStop .ss (s.reg SP) .word false = none) :
    IsSegmentLoad (.popSreg sr) s sr (s.load .ss (s.reg SP) .word)
      (fun t => s.held sr (t.setReg SP (s.reg SP + 2))) := by
  refine hs.isSegmentLoad (if_neg hsr) (bind_ok (checkPop_eq h)) (fun t hregs hinhibit => ?_)
    ((outsideMemory_held s sr).comp (outsideMemory_setReg SP _))
  have hsp : t.reg SP = s.reg SP := by rw [State.reg, State.reg, hregs]
  rw [hsp]
  exact State.holdOff_eq_held (t := t.setReg SP (s.reg SP + 2)) hinhibit sr

theorem isSegmentLoad_lds {s : State} (hs : s.Ready) {m : MemOp} (h : s.wordsStop m 2 false = none) (r : Reg) :
    IsSegmentLoad (.lds r m) s .ds (s.memValue m 2 .word) (fun t => t.setReg r (s.memValue m 0 .word)) :=
  hs.isSegmentLoad rfl (loadPointer_eq h _ r) (fun _ _ _ => rfl) (outsideMemory_setReg r _)

theorem isSegmentLoad_les {s : State} (hs : s.Ready) {m : MemOp} (h : s.wordsStop m 2 false = none) (r : Reg) :
    IsSegmentLoad (.les r m) s .es (s.memValue m 2 .word) (fun t => t.setReg r (s.memValue m 0 .word)) :=
  hs.isSegmentLoad rfl (loadPointer_eq h _ r) (fun _ _ _ => rfl) (outsideMemory_setReg r _)

/-! The load and its rest in real mode. -/

theorem realSegReg_eq (sel : Word) : realSegReg sel = realSegment sel := by
  rw [realSegment, ← realSegReg_base]
  rfl

theorem IsSegmentLoad.real {i : Instr} {s : State} {sr : SReg} {sel : Word} {rest : State → State}
    (h : IsSegmentLoad i s sr sel rest) (hpe : s.msw.pe = false) :
    exec i s = .next (rest (s.setSeg sr (realSegment sel))).endInstruction := by
  have hload := loadSeg_real sr sel s hpe
  rw [realSegReg_eq] at hload
  exact h.of_ok _ hload (by simp) (by simp)

/-- Settles O21: each of the four is a load, which in real mode no test can stop. -/
theorem realSegmentLoad : Obligations.RealSegmentLoad := by
  intro s sr hs hpe hsr
  refine ⟨fun rm h => ?_, fun h => ?_, fun r m h => ?_, fun r m h => ?_⟩
  · exact (isSegmentLoad_movSregRm hs hsr h).real hpe
  · have hread : s.accessStop .ss (s.reg SP) .word false = none := by
      rw [State.accessStop_real hpe, if_neg fun hsp => h hsp.2]
    exact (isSegmentLoad_popSreg hs hsr hread).real hpe
  · exact (isSegmentLoad_lds hs h r).real hpe
  · exact (isSegmentLoad_les hs h r).real hpe

/-! The load and its rest in protected mode. -/

/-- A descriptor that passes is cached and marked accessed; the rest of memory is as before. -/
theorem IsSegmentLoad.cachesSegment {i : Instr} {s : State} {sr : SReg} {sel : Word} {rest : State → State} {a : Addr}
    (h : IsSegmentLoad i s sr sel rest) (hload : loadSeg sr sel s = .ok () (s.loadFrom sr sel (s.descriptorAt a))) :
    CachesSegment i s sr sel a rest := by
  have hmem (t : State) : (rest (t.setSeg sr (segmentOf (s.descriptorAt a) sel))).mem = t.mem :=
    (h.outside.mem _).trans (by simp)
  refine ⟨h.of_ok _ hload (by simp) (by simp), fun l hl => ?_, fun hm hram => ?_⟩
  · exact (congrArg (Memory.read · l) (hmem _)).trans (s.sameMemory_setAccessed (s.descriptorAt a) l hl)
  · refine (State.readByte_congr (s := s.setAccessed (s.descriptorAt a)) (hmem _) ?_ ?_ ?_ _).trans
      (State.readByte_setAccessed hm hram)
    · exact (h.outside.board _).trans (by simp)
    · exact (h.outside.msw _).trans (by simp)
    · exact (h.outside.ticks _).trans (by simp)

theorem IsSegmentLoad.loadsSegment {i : Instr} {s : State} {sr : SReg} {sel : Word} {rest : State → State}
    (h : IsSegmentLoad i s sr sel rest) (hpe : s.msw.pe = true) : LoadsSegment i s sr sel rest := by
  refine ⟨fun hsel => ?_, fun hsel ha => ?_, fun a ha => ?_⟩
  · split
    case isTrue hsr =>
      subst hsr
      exact h.of_error _ _ (by decide) (loadSeg_null_ss hpe hsel)
    case isFalse hsr => exact h.of_ok _ (loadSeg_null_data hpe hsr hsel) (by simp) (by simp)
  · exact h.of_error _ _ (by decide) (loadSeg_outside hpe sr hsel ha)
  · obtain ⟨hdenied, habsent, hpasses⟩ := loadSeg_named hpe sr ha
    refine ⟨fun hn => ?_, fun hmay hp => ?_, fun hmay hp => ?_⟩
    · exact h.of_error _ _ (by decide) (hdenied hn)
    · exact h.of_error _ _ (by split <;> decide) (habsent hmay hp)
    · exact h.cachesSegment (hpasses hmay hp)

/-- Settles O22: each of the four is a load, whose tests are those of the selector and of its descriptor. -/
theorem protectedSegmentLoad : Obligations.ProtectedSegmentLoad := by
  intro s hs
  obtain ⟨hpe, hs⟩ := hs
  refine ⟨fun sr hsr => ⟨fun rm h => ?_, fun h => ?_⟩, fun r m off sel h => ?_⟩
  · exact (isSegmentLoad_movSregRm hs hsr h).loadsSegment hpe
  · exact (isSegmentLoad_popSreg hs hsr h).loadsSegment hpe
  · obtain ⟨hread, rfl, rfl⟩ := h
    exact ⟨(isSegmentLoad_lds hs hread r).loadsSegment hpe, (isSegmentLoad_les hs hread r).loadsSegment hpe⟩

end Sys2Proof.Machine

/-! The decoder as a grammar (30_encoding.md R150 to R162): which bytes each format reads as which instruction. The
decoder answers exactly by this grammar (`decode_iff`), so that what remains of the two round trips is to compare the
grammar with the encoder. -/

namespace Sys2Proof

/-- The mod reg r/m bytes an operand form leaves undefined: all of them, or those that name a register where memory is
asked for (30_encoding.md R167). -/
def Operand.gap (mod : BitVec 2) : Operand → Bool
  | .undefined => true
  | .mem _ => mod == 3#2
  | _ => false

/-- The mod reg r/m bytes a format leaves undefined, by their `mod` and `reg` fields. -/
def Format.gap (mod : BitVec 2) (reg : Reg) : Format → Bool
  | .modrm k => (k reg).gap mod
  | _ => false

/-- The bytes of an operand form from the mod reg r/m byte on, whose reg field is `reg`, and the instruction they make;
`u b` is the undefined encoding a mod reg r/m byte `b` makes. -/
inductive Operand.Reads (u : Byte → Undefined) (reg : Reg) : List Byte → Operand → Instr → Prop
  | gap {o : Operand} {b : Byte} (hreg : regField b = reg) (h : o.gap (modField b) = true) :
      Reads u reg [b] o (.undefined (u b))
  | rm {k : Rm → Instr} {rm : Rm} (h : rm.wf = true) : Reads u reg (rm.encode reg) (.rm k) (k rm)
  | mem {k : MemOp → Instr} {m : MemOp} (h : m.wf = true) : Reads u reg (m.encode reg) (.mem k) (k m)
  | rmImm8 {k : Rm → Byte → Instr} {rm : Rm} {v : Byte} (h : rm.wf = true) :
      Reads u reg (rm.encode reg ++ [v]) (.rmImm8 k) (k rm v)
  | rmImm16 {k : Rm → Word → Instr} {rm : Rm} {v : Word} (h : rm.wf = true) :
      Reads u reg (rm.encode reg ++ wordBytes v) (.rmImm16 k) (k rm v)

/-- The bytes of a format after its opcode, and the instruction they make. -/
inductive Format.Reads (u : Byte → Undefined) : List Byte → Format → Instr → Prop
  | bare {i : Instr} : Reads u [] (.bare i) i
  | imm8 {k : Byte → Instr} {v : Byte} : Reads u [v] (.imm8 k) (k v)
  | imm16 {k : Word → Instr} {v : Word} : Reads u (wordBytes v) (.imm16 k) (k v)
  | imm16imm8 {k : Word → Byte → Instr} {v : Word} {n : Byte} : Reads u (wordBytes v ++ [n]) (.imm16imm8 k) (k v n)
  | far {k : Word → Word → Instr} {off sel : Word} :
      Reads u (wordBytes off ++ wordBytes sel) (.far k) (k off sel)
  | baseTen {i : Instr} : Reads u [0x0A] (.baseTen i) i
  | modrm {k : Reg → Operand} {reg : Reg} {l : List Byte} {i : Instr} (h : (k reg).Reads u reg l i) :
      Reads u l (.modrm k) i

/-- The bytes `decode` reads at once, and the instruction they make. -/
inductive Instr.ReadFrom : List Byte → Instr → Prop
  | oneByte {op : Byte} {l : List Byte} {i : Instr} (h : (opcodeFormat op).Reads (.group op) l i) : ReadFrom (op :: l) i
  | page0F {op op2 : Byte} {l : List Byte} {i : Instr} (hop : opcodeFormat op = .escape0F)
      (h : (page0FFormat op2).Reads (.group0F op2) l i) : ReadFrom (op :: op2 :: l) i

/-! The mod reg r/m byte and its displacement. -/

/-- A mod reg r/m byte is made of its fields. -/
theorem modrmByte_fields (b : Byte) : modrmByte (modField b) (regField b) (rmField b) = b := by
  revert b
  decide +kernel

theorem wordBytes_concat (h l : Byte) : wordBytes (concatBytes h l) = [l, h] := by
  simp only [wordBytes, low_concat, high_concat]

/-- The fourth value of a mod field. -/
theorem modField_eq_two {mod : BitVec 2} (h0 : mod ≠ 0#2) (h1 : mod ≠ 1#2) (h3 : mod ≠ 3#2) : mod = 2#2 := by
  revert mod
  decide

/-- What `decodeMem` answers is well formed and encodes to what was read. -/
theorem decodeMem_some {mod : BitVec 2} {rm : Reg} {bs rest : List Byte} {m : MemOp} (hmod : mod ≠ 3#2)
    (h : decodeMem mod rm bs = some (m, rest)) (reg : Reg) :
    m.wf = true ∧ modrmByte mod reg rm :: bs = m.encode reg ++ rest := by
  unfold decodeMem at h
  split at h
  case isTrue h0 =>
    subst h0
    split at h
    case isTrue h6 =>
      subst h6
      split at h
      · obtain ⟨rfl, rfl⟩ := h
        exact ⟨rfl, congrArg (_ :: · ++ _) (wordBytes_concat _ _).symm⟩
      · contradiction
    case isFalse h6 =>
      obtain ⟨rfl, rfl⟩ := h
      exact ⟨bne_iff_ne.2 h6, rfl⟩
  case isFalse h0 =>
    split at h
    case isTrue h1 =>
      subst h1
      split at h
      · obtain ⟨rfl, rfl⟩ := h
        exact ⟨rfl, rfl⟩
      · contradiction
    case isFalse h1 =>
      obtain rfl := modField_eq_two h0 h1 hmod
      split at h
      · obtain ⟨rfl, rfl⟩ := h
        exact ⟨rfl, congrArg (_ :: · ++ _) (wordBytes_concat _ _).symm⟩
      · contradiction

theorem decodeRm_of_mod_three (rm : Reg) (bs : List Byte) : decodeRm 3#2 rm bs = some (.reg rm, bs) := rfl

theorem decodeRm_of_mem {mod : BitVec 2} (h : mod ≠ 3#2) (rm : Reg) (bs : List Byte) :
    decodeRm mod rm bs = (decodeMem mod rm bs).map fun p => (.mem p.1, p.2) := if_neg h

/-- What `decodeRm` answers is well formed and encodes to what was read. -/
theorem decodeRm_some {mod : BitVec 2} {r : Reg} {bs rest : List Byte} {rm : Rm}
    (h : decodeRm mod r bs = some (rm, rest)) (reg : Reg) :
    rm.wf = true ∧ modrmByte mod reg r :: bs = rm.encode reg ++ rest := by
  by_cases hmod : mod = 3#2
  · subst hmod
    obtain ⟨rfl, rfl⟩ := h
    exact ⟨rfl, rfl⟩
  · rw [decodeRm_of_mem hmod] at h
    obtain ⟨⟨m, l⟩, hm, hl⟩ := Option.map_eq_some_iff.1 h
    obtain ⟨rfl, rfl⟩ := hl
    exact decodeMem_some hmod hm reg

/-- The r/m operands a mod reg r/m byte and the bytes after it decode to are those whose encoding stands there. -/
theorem decodeRm_iff {b : Byte} {bs rest : List Byte} {rm : Rm} :
    decodeRm (modField b) (rmField b) bs = some (rm, rest) ↔
      rm.wf = true ∧ b :: bs = rm.encode (regField b) ++ rest := by
  constructor
  · intro h
    simpa only [modrmByte_fields] using decodeRm_some h (regField b)
  · rintro ⟨hwf, h⟩
    obtain ⟨mod, r, tail, hl, hd⟩ := decodeRm_encode rm hwf (regField b) rest
    obtain ⟨hb, rfl⟩ := List.cons.inj (h.trans hl)
    rwa [hb, modField_modrm, rmField_modrm]

/-- A memory operand is an r/m operand that is no register. -/
theorem decodeRm_eq_mem {mod : BitVec 2} {r : Reg} {bs rest : List Byte} {m : MemOp} :
    decodeRm mod r bs = some (.mem m, rest) ↔ mod ≠ 3#2 ∧ decodeMem mod r bs = some (m, rest) := by
  by_cases hmod : mod = 3#2
  · simp [hmod, decodeRm_of_mod_three]
  · simp [hmod, decodeRm_of_mem hmod]

theorem decodeMem_iff {b : Byte} {bs rest : List Byte} {m : MemOp} :
    modField b ≠ 3#2 ∧ decodeMem (modField b) (rmField b) bs = some (m, rest) ↔
      m.wf = true ∧ b :: bs = m.encode (regField b) ++ rest :=
  decodeRm_eq_mem.symm.trans decodeRm_iff

/-! Operand forms and formats. -/

theorem MemOp.encode_eq_modrm (m : MemOp) (reg : Reg) : ∃ mod rm tail, m.encode reg = modrmByte mod reg rm :: tail := by
  cases m <;> exact ⟨_, _, _, rfl⟩

theorem Rm.encode_eq_modrm (rm : Rm) (reg : Reg) : ∃ mod r tail, rm.encode reg = modrmByte mod reg r :: tail := by
  cases rm with
  | reg r => exact ⟨_, _, _, rfl⟩
  | mem m => exact m.encode_eq_modrm reg

/-- The bytes of an operand form begin with a mod reg r/m byte of its reg field. -/
theorem Operand.Reads.eq_cons {o : Operand} {u : Byte → Undefined} {reg : Reg} {l : List Byte} {i : Instr}
    (h : o.Reads u reg l i) : ∃ b tail, regField b = reg ∧ l = b :: tail := by
  cases h with
  | gap hreg => exact ⟨_, _, hreg, rfl⟩
  | @rm _ rm =>
    obtain ⟨mod, r, tail, hl⟩ := rm.encode_eq_modrm reg
    exact ⟨_, _, regField_modrm mod reg r, hl⟩
  | @rmImm8 _ rm | @rmImm16 _ rm =>
    obtain ⟨mod, r, tail, hl⟩ := rm.encode_eq_modrm reg
    exact ⟨_, _, regField_modrm mod reg r, congrArg (· ++ _) hl⟩
  | @mem _ m =>
    obtain ⟨mod, r, tail, hl⟩ := m.encode_eq_modrm reg
    exact ⟨_, _, regField_modrm mod reg r, hl⟩

/-- The decoder answers for an operand form what its grammar says. -/
theorem decodeOperand_iff {o : Operand} {u : Byte → Undefined} {b : Byte} {bs rest : List Byte} {i : Instr} :
    decodeOperand o (.undefined (u b)) b bs = .ok i rest ↔
      ∃ l, o.Reads u (regField b) l i ∧ b :: bs = l ++ rest := by
  constructor
  · intro h
    cases o with
    | undefined =>
      obtain ⟨rfl, rfl⟩ := h
      exact ⟨[b], .gap rfl rfl, rfl⟩
    | rm k =>
      simp only [decodeOperand] at h
      split at h
      case h_1 rm tail hrm =>
        obtain ⟨rfl, rfl⟩ := h
        obtain ⟨hwf, hl⟩ := decodeRm_iff.1 hrm
        exact ⟨_, .rm hwf, hl⟩
      case h_2 => contradiction
    | mem k =>
      simp only [decodeOperand] at h
      split at h
      case isTrue hmod =>
        obtain ⟨rfl, rfl⟩ := h
        exact ⟨[b], .gap rfl (beq_iff_eq.2 hmod), rfl⟩
      case isFalse hmod =>
        split at h
        case h_1 m tail hm =>
          obtain ⟨rfl, rfl⟩ := h
          obtain ⟨hwf, hl⟩ := decodeMem_iff.1 ⟨hmod, hm⟩
          exact ⟨_, .mem hwf, hl⟩
        case h_2 => contradiction
    | rmImm8 k =>
      simp only [decodeOperand] at h
      split at h
      case h_1 rm v tail hrm =>
        obtain ⟨rfl, rfl⟩ := h
        obtain ⟨hwf, hl⟩ := decodeRm_iff.1 hrm
        exact ⟨_, .rmImm8 hwf, by rw [hl, List.append_assoc]; rfl⟩
      case h_2 => contradiction
    | rmImm16 k =>
      simp only [decodeOperand] at h
      split at h
      case h_1 rm low high tail hrm =>
        obtain ⟨rfl, rfl⟩ := h
        obtain ⟨hwf, hl⟩ := decodeRm_iff.1 hrm
        exact ⟨_, .rmImm16 hwf, by rw [hl, List.append_assoc, wordBytes_concat]; rfl⟩
      case h_2 => contradiction
  · rintro ⟨l, h, hl⟩
    cases h with
    | gap hreg h =>
      obtain ⟨rfl, rfl⟩ := List.cons.inj hl
      cases o with
      | undefined => rfl
      | mem k => simp only [decodeOperand, if_pos (beq_iff_eq.1 h)]
      | rm | rmImm8 | rmImm16 => contradiction
    | rm hwf => simp only [decodeOperand, decodeRm_iff.2 ⟨hwf, hl⟩]
    | mem hwf =>
      obtain ⟨hmod, hm⟩ := decodeMem_iff.2 ⟨hwf, hl⟩
      simp only [decodeOperand, if_neg hmod, hm]
    | rmImm8 hwf =>
      rw [List.append_assoc] at hl
      simp only [decodeOperand, decodeRm_iff.2 ⟨hwf, hl⟩, List.cons_append, List.nil_append]
    | rmImm16 hwf =>
      rw [List.append_assoc] at hl
      simp only [decodeOperand, decodeRm_iff.2 ⟨hwf, hl⟩, wordBytes, List.cons_append, List.nil_append,
        concat_high_low]

/-- The decoder answers for a format what its grammar says. -/
theorem decodeFormat_iff {f : Format} {u : Byte → Undefined} {bs rest : List Byte} {i : Instr} :
    decodeFormat f u bs = .ok i rest ↔ ∃ l, f.Reads u l i ∧ bs = l ++ rest := by
  constructor
  · intro h
    cases f with
    | bare j =>
      obtain ⟨rfl, rfl⟩ := h
      exact ⟨_, .bare, rfl⟩
    | imm8 k =>
      simp only [decodeFormat] at h
      split at h
      · obtain ⟨rfl, rfl⟩ := h
        exact ⟨_, .imm8, rfl⟩
      · contradiction
    | imm16 k =>
      simp only [decodeFormat] at h
      split at h
      · obtain ⟨rfl, rfl⟩ := h
        exact ⟨_, .imm16, by rw [wordBytes_concat]; rfl⟩
      · contradiction
    | imm16imm8 k =>
      simp only [decodeFormat] at h
      split at h
      · obtain ⟨rfl, rfl⟩ := h
        exact ⟨_, .imm16imm8, by rw [wordBytes_concat]; rfl⟩
      · contradiction
    | far k =>
      simp only [decodeFormat] at h
      split at h
      · obtain ⟨rfl, rfl⟩ := h
        exact ⟨_, .far, by rw [wordBytes_concat, wordBytes_concat]; rfl⟩
      · contradiction
    | baseTen j =>
      simp only [decodeFormat] at h
      split at h
      · split at h
        case isTrue hv =>
          obtain ⟨rfl, rfl⟩ := h
          exact ⟨_, .baseTen, congrArg (· :: _) hv⟩
        case isFalse => contradiction
      · contradiction
    | modrm k =>
      simp only [decodeFormat] at h
      split at h
      · obtain ⟨l, hl, hbs⟩ := decodeOperand_iff.1 h
        exact ⟨l, .modrm hl, hbs⟩
      · contradiction
    | escape0F => contradiction
  · rintro ⟨l, h, rfl⟩
    cases h with
    | bare | imm8 => rfl
    | imm16 | imm16imm8 | far =>
      simp only [decodeFormat, wordBytes, List.cons_append, List.nil_append, concat_high_low]
    | baseTen => rfl
    | modrm h =>
      obtain ⟨b, tail, rfl, rfl⟩ := h.eq_cons
      exact decodeOperand_iff.2 ⟨_, h, rfl⟩

theorem decode_of_escape {op : Byte} (h : opcodeFormat op = .escape0F) (op2 : Byte) (bs : List Byte) :
    decode (op :: op2 :: bs) = decodeFormat (page0FFormat op2) (.group0F op2) bs := by
  simp only [decode, h]

theorem decode_of_not_escape {op : Byte} (h : opcodeFormat op ≠ .escape0F) (bs : List Byte) :
    decode (op :: bs) = decodeFormat (opcodeFormat op) (.group op) bs := by
  simp only [decode]

/-- The decoder answers what the grammar says. -/
theorem decode_iff {bs rest : List Byte} {i : Instr} :
    decode bs = .ok i rest ↔ ∃ l, i.ReadFrom l ∧ bs = l ++ rest := by
  constructor
  · intro h
    cases bs with
    | nil => contradiction
    | cons op tail =>
      by_cases hop : opcodeFormat op = .escape0F
      · cases tail with
        | nil => simp only [decode, hop, reduceCtorEq] at h
        | cons op2 tail =>
          rw [decode_of_escape hop] at h
          obtain ⟨l, hl, rfl⟩ := decodeFormat_iff.1 h
          exact ⟨_, .page0F hop hl, rfl⟩
      · rw [decode_of_not_escape hop] at h
        obtain ⟨l, hl, rfl⟩ := decodeFormat_iff.1 h
        exact ⟨_, .oneByte hl, rfl⟩
  · rintro ⟨l, h, rfl⟩
    cases h with
    | @oneByte op l _ h =>
      have hop : opcodeFormat op ≠ .escape0F := by
        intro hop
        rw [hop] at h
        cases h
      exact (decode_of_not_escape hop _).trans (decodeFormat_iff.2 ⟨l, h, rfl⟩)
    | @page0F op op2 l _ hop h => exact (decode_of_escape hop op2 _).trans (decodeFormat_iff.2 ⟨l, h, rfl⟩)

end Sys2Proof

/-! The undefined encodings of 30_encoding.md R167 are the gaps of the opcode map. -/

namespace Sys2Proof

/-- A mod reg r/m byte a format leaves undefined is read as undefined. -/
theorem Format.Reads.of_gap {f : Format} {b : Byte} (u : Byte → Undefined)
    (h : f.gap (modField b) (regField b) = true) : f.Reads u [b] (.undefined (u b)) := by
  cases f with
  | modrm k => exact .modrm (.gap rfl h)
  | _ => contradiction

/-- The undefined mod reg r/m bytes of an opcode are the gaps of its format: the two tables are compared over the
opcodes and the `mod` and `reg` fields. -/
theorem undefinedGroup_eq_gap (op b : Byte) :
    undefinedGroup op b = (opcodeFormat op).gap (modField b) (regField b) := by
  simp only [undefinedGroup]
  generalize modField b = mod, regField b = reg
  revert op mod reg
  decide +kernel

theorem opcodeFormat_of_undefined {op : Byte} (h : undefinedOpcode op = true) :
    opcodeFormat op = .bare (.undefined (.oneByte op)) := by
  simp only [undefinedOpcode, Bool.or_eq_true, beq_iff_eq] at h
  obtain ((((rfl | rfl) | rfl) | rfl) | rfl) | rfl := h <;> rfl

/-- The second bytes after 0x0F: five are defined, the rest are listed as undefined. -/
theorem page0F_cases (op2 : Byte) :
    op2 = 0 ∨ op2 = 1 ∨ op2 = 2 ∨ op2 = 3 ∨ op2 = 6 ∨ undefinedPage0F op2 = true := by
  revert op2
  decide +kernel

theorem page0FFormat_of_undefined {op2 : Byte} (h : undefinedPage0F op2 = true) :
    page0FFormat op2 = .bare (.undefined (.page0F op2)) := by
  unfold page0FFormat
  split
  case h_1 hop | h_2 hop | h_3 hop | h_4 hop | h_5 hop => simp [undefinedPage0F, ← BitVec.toNat_inj, hop] at h
  case h_6 => rfl

/-- The undefined mod reg r/m bytes after 0x0F and a second byte are the gaps of its format. -/
theorem undefinedGroup0F_eq_gap (op2 b : Byte) :
    undefinedGroup0F op2 b = (page0FFormat op2).gap (modField b) (regField b) := by
  simp only [undefinedGroup0F]
  generalize modField b = mod, regField b = reg
  obtain rfl | rfl | rfl | rfl | rfl | h := page0F_cases op2
  · revert mod reg
    decide
  · revert mod reg
    decide
  · rfl
  · rfl
  · rfl
  · rw [page0FFormat_of_undefined h]
    have h0 : op2 ≠ 0 := by rintro rfl; contradiction
    have h1 : op2 ≠ 1 := by rintro rfl; contradiction
    rw [if_neg (mt beq_iff_eq.1 h0), if_neg (mt beq_iff_eq.1 h1)]
    rfl

/-- The escape to the second page is the byte 0x0F (30_encoding.md R165). -/
theorem eq_0F_of_escape {op : Byte} (h : opcodeFormat op = .escape0F) : op = 0x0F := by
  have hctor : (opcodeFormat op).ctorIdx = Format.escape0F.ctorIdx := congrArg Format.ctorIdx h
  clear h
  revert op
  decide +kernel

end Sys2Proof

/-! What the opcode map reads is well formed and written as it was read (30_encoding.md R165 to R169). -/

namespace Sys2Proof

/-- `i` is well formed and its encoding is `l`. -/
structure Instr.WrittenAs (i : Instr) (l : List Byte) : Prop where
  wf : i.wf = true
  encode_eq : encode i = l

/-- Every instruction an operand form makes after the bytes `pre`, undefined ones aside, is written as it was read. -/
inductive Operand.Encodes (pre : List Byte) (reg : Reg) : Operand → Prop
  | undefined : Encodes pre reg .undefined
  | rm {k : Rm → Instr} (h : ∀ rm, rm.wf = true → (k rm).WrittenAs (pre ++ rm.encode reg)) : Encodes pre reg (.rm k)
  | mem {k : MemOp → Instr} (h : ∀ m, m.wf = true → (k m).WrittenAs (pre ++ m.encode reg)) : Encodes pre reg (.mem k)
  | rmImm8 {k : Rm → Byte → Instr} (h : ∀ rm v, rm.wf = true → (k rm v).WrittenAs (pre ++ (rm.encode reg ++ [v]))) :
      Encodes pre reg (.rmImm8 k)
  | rmImm16 {k : Rm → Word → Instr}
      (h : ∀ rm v, rm.wf = true → (k rm v).WrittenAs (pre ++ (rm.encode reg ++ wordBytes v))) :
      Encodes pre reg (.rmImm16 k)

/-- Every instruction a format makes after the opcode bytes `pre`, undefined mod reg r/m bytes aside, is written as it
was read. -/
inductive Format.Encodes (pre : List Byte) : Format → Prop
  | bare {i : Instr} (h : i.WrittenAs pre) : Encodes pre (.bare i)
  | imm8 {k : Byte → Instr} (h : ∀ v, (k v).WrittenAs (pre ++ [v])) : Encodes pre (.imm8 k)
  | imm16 {k : Word → Instr} (h : ∀ v, (k v).WrittenAs (pre ++ wordBytes v)) : Encodes pre (.imm16 k)
  | imm16imm8 {k : Word → Byte → Instr} (h : ∀ v n, (k v n).WrittenAs (pre ++ (wordBytes v ++ [n]))) :
      Encodes pre (.imm16imm8 k)
  | far {k : Word → Word → Instr} (h : ∀ off sel, (k off sel).WrittenAs (pre ++ (wordBytes off ++ wordBytes sel))) :
      Encodes pre (.far k)
  | baseTen {i : Instr} (h : i.WrittenAs (pre ++ [0x0A])) : Encodes pre (.baseTen i)
  | modrm {k : Reg → Operand} (h : ∀ reg, (k reg).Encodes pre reg) : Encodes pre (.modrm k)
  | escape0F : Encodes pre .escape0F

theorem Operand.Encodes.writtenAs {o : Operand} {pre l : List Byte} {u : Byte → Undefined} {reg : Reg} {i : Instr}
    (h : o.Encodes pre reg) (hr : o.Reads u reg l i)
    (hgap : ∀ b, regField b = reg → o.gap (modField b) = true → (Instr.undefined (u b)).WrittenAs (pre ++ [b])) :
    i.WrittenAs (pre ++ l) := by
  cases hr with
  | gap hreg hmod => exact hgap _ hreg hmod
  | rm hwf => cases h with | rm h => exact h _ hwf
  | mem hwf => cases h with | mem h => exact h _ hwf
  | rmImm8 hwf => cases h with | rmImm8 h => exact h _ _ hwf
  | rmImm16 hwf => cases h with | rmImm16 h => exact h _ _ hwf

/-- Where the gaps of a format are well-formed undefined encodings, all it reads is written as it was read. -/
theorem Format.Encodes.writtenAs {f : Format} {pre l : List Byte} {u : Byte → Undefined} {i : Instr}
    (h : f.Encodes pre) (hr : f.Reads u l i)
    (hgap : ∀ b, f.gap (modField b) (regField b) = true → (Instr.undefined (u b)).WrittenAs (pre ++ [b])) :
    i.WrittenAs (pre ++ l) := by
  cases hr with
  | bare => cases h with | bare h => simpa only [List.append_nil] using h
  | imm8 => cases h with | imm8 h => exact h _
  | imm16 => cases h with | imm16 h => exact h _
  | imm16imm8 => cases h with | imm16imm8 h => exact h _ _
  | far => cases h with | far h => exact h _ _
  | baseTen => cases h with | baseTen h => exact h
  | modrm hr =>
    cases h with
    | modrm h =>
      refine (h _).writtenAs hr fun b hreg hmod => hgap b ?_
      subst hreg
      exact hmod

/-! The groups, whose instruction is chosen by the reg field (30_encoding.md R165, R166). -/

theorem immedGroup_writtenAs (reg : Reg) {rm : Rm} (h : rm.wf = true) (i : AluImm) :
    (immedGroup reg rm i).WrittenAs (encodeImmed reg rm i) := by
  match reg with
  | ⟨0⟩ | ⟨1⟩ | ⟨2⟩ | ⟨3⟩ | ⟨4⟩ | ⟨5⟩ | ⟨6⟩ | ⟨7⟩ => exact ⟨h, rfl⟩

theorem shiftGroup1_encodes (w : Width) : ∀ reg, (shiftGroup1 w reg).Encodes [withW 0xD0 w] reg
  | ⟨0⟩ | ⟨1⟩ | ⟨2⟩ | ⟨3⟩ | ⟨4⟩ | ⟨5⟩ | ⟨7⟩ => .rm fun _ h => ⟨h, rfl⟩
  | ⟨6⟩ => .undefined

theorem shiftGroupCl_encodes (w : Width) : ∀ reg, (shiftGroupCl w reg).Encodes [withW 0xD2 w] reg
  | ⟨0⟩ | ⟨1⟩ | ⟨2⟩ | ⟨3⟩ | ⟨4⟩ | ⟨5⟩ | ⟨7⟩ => .rm fun _ h => ⟨h, rfl⟩
  | ⟨6⟩ => .undefined

theorem shiftGroupImm_encodes (w : Width) : ∀ reg, (shiftGroupImm w reg).Encodes [withW 0xC0 w] reg
  | ⟨0⟩ | ⟨1⟩ | ⟨2⟩ | ⟨3⟩ | ⟨4⟩ | ⟨5⟩ | ⟨7⟩ => .rmImm8 fun _ _ h => ⟨h, rfl⟩
  | ⟨6⟩ => .undefined

theorem group1_encodes (w : Width) : ∀ reg, (group1 w reg).Encodes [withW 0xF6 w] reg
  | ⟨0⟩ =>
    match w with
    | .byte => .rmImm8 fun _ _ h => ⟨h, rfl⟩
    | .word => .rmImm16 fun _ _ h => ⟨h, rfl⟩
  | ⟨1⟩ => .undefined
  | ⟨2⟩ | ⟨3⟩ | ⟨4⟩ | ⟨5⟩ | ⟨6⟩ | ⟨7⟩ => .rm fun _ h => ⟨h, rfl⟩

theorem group2Byte_encodes : ∀ reg, (group2Byte reg).Encodes [0xFE] reg
  | ⟨0⟩ | ⟨1⟩ => .rm fun _ h => ⟨h, rfl⟩
  | ⟨2⟩ | ⟨3⟩ | ⟨4⟩ | ⟨5⟩ | ⟨6⟩ | ⟨7⟩ => .undefined

theorem group2Word_encodes : ∀ reg, (group2Word reg).Encodes [0xFF] reg
  | ⟨0⟩ | ⟨1⟩ | ⟨2⟩ | ⟨4⟩ | ⟨6⟩ => .rm fun _ h => ⟨h, rfl⟩
  | ⟨3⟩ | ⟨5⟩ => .mem fun _ h => ⟨h, rfl⟩
  | ⟨7⟩ => .undefined

theorem pvam0_encodes : ∀ reg, (pvam0 reg).Encodes [0x0F, 0] reg
  | ⟨0⟩ | ⟨1⟩ | ⟨2⟩ | ⟨3⟩ | ⟨4⟩ | ⟨5⟩ => .rm fun _ h => ⟨h, rfl⟩
  | ⟨6⟩ | ⟨7⟩ => .undefined

theorem pvam1_encodes : ∀ reg, (pvam1 reg).Encodes [0x0F, 1] reg
  | ⟨0⟩ | ⟨1⟩ | ⟨2⟩ | ⟨3⟩ => .mem fun _ h => ⟨h, rfl⟩
  | ⟨4⟩ | ⟨6⟩ => .rm fun _ h => ⟨h, rfl⟩
  | ⟨5⟩ | ⟨7⟩ => .undefined

theorem movFromSreg_encodes : ∀ reg, (movFromSreg reg).Encodes [0x8C] reg
  | ⟨0⟩ | ⟨1⟩ | ⟨2⟩ | ⟨3⟩ => .rm fun _ h => ⟨h, rfl⟩
  | ⟨4⟩ | ⟨5⟩ | ⟨6⟩ | ⟨7⟩ => .undefined

theorem movToSreg_encodes : ∀ reg, (movToSreg reg).Encodes [0x8E] reg
  | ⟨0⟩ | ⟨2⟩ | ⟨3⟩ => .rm fun _ h => ⟨h, rfl⟩
  | ⟨1⟩ | ⟨4⟩ | ⟨5⟩ | ⟨6⟩ | ⟨7⟩ => .undefined

theorem onlyReg0_encodes {o : Operand} {pre : List Byte} (h : o.Encodes pre 0) (reg : Reg) :
    (onlyReg0 o reg).Encodes pre reg := by
  unfold onlyReg0
  split
  case isTrue hreg => rwa [hreg]
  case isFalse => exact .undefined

/-! The one-byte opcode map (30_encoding.md R168), by half rows of eight opcodes. -/

/-- An opcode by its bits 7 to 6, 5 to 3 and 2 to 0. -/
def opcodeAt (x : BitVec 2) (y z : Reg) : Byte := x ++ y ++ z

/-- What the map reads after the opcode `op` is written as it was read. -/
def OpcodeEncodes (op : Byte) : Prop := (opcodeFormat op).Encodes [op]

/-- The first six columns of the arithmetic half rows (30_encoding.md R152). -/
theorem encodes_alu_columns (y : Reg) : ∀ z : Reg, z.toNat < 6 → OpcodeEncodes (opcodeAt 0 y z) := by
  intro z hz
  match y with
  | ⟨0⟩ | ⟨1⟩ | ⟨2⟩ | ⟨3⟩ | ⟨4⟩ | ⟨5⟩ | ⟨6⟩ | ⟨7⟩ =>
    match z with
    | ⟨0⟩ | ⟨1⟩ | ⟨2⟩ | ⟨3⟩ => exact .modrm fun _ => .rm fun _ h => ⟨h, rfl⟩
    | ⟨4⟩ => exact .imm8 fun _ => ⟨rfl, rfl⟩
    | ⟨5⟩ => exact .imm16 fun _ => ⟨rfl, rfl⟩

/-- The columns 6, 7, E and F of rows 0 to 3: segment registers, segment overrides, decimal adjustments
and the byte 0x0F. -/
theorem encodes_alu_others (y : Reg) : OpcodeEncodes (opcodeAt 0 y 6) ∧ OpcodeEncodes (opcodeAt 0 y 7) := by
  match y with
  | ⟨1⟩ => exact ⟨.bare ⟨rfl, rfl⟩, .escape0F⟩
  | ⟨0⟩ | ⟨2⟩ | ⟨3⟩ | ⟨4⟩ | ⟨5⟩ | ⟨6⟩ | ⟨7⟩ => exact ⟨.bare ⟨rfl, rfl⟩, .bare ⟨rfl, rfl⟩⟩

theorem encodes_alu (y z : Reg) : OpcodeEncodes (opcodeAt 0 y z) := by
  obtain ⟨h6, h7⟩ := encodes_alu_others y
  match z with
  | ⟨0⟩ | ⟨1⟩ | ⟨2⟩ | ⟨3⟩ | ⟨4⟩ | ⟨5⟩ => exact encodes_alu_columns y _ (by decide)
  | ⟨6⟩ => exact h6
  | ⟨7⟩ => exact h7

theorem encodes_40_5F (y : Reg) (hy : y.toNat < 4) (z : Reg) : OpcodeEncodes (opcodeAt 1 y z) := by
  match y with
  | ⟨0⟩ | ⟨1⟩ | ⟨2⟩ | ⟨3⟩ =>
    match z with
    | ⟨0⟩ | ⟨1⟩ | ⟨2⟩ | ⟨3⟩ | ⟨4⟩ | ⟨5⟩ | ⟨6⟩ | ⟨7⟩ => exact .bare ⟨rfl, rfl⟩

theorem encodes_60_67 : ∀ z, OpcodeEncodes (opcodeAt 1 4 z)
  | ⟨0⟩ | ⟨1⟩ | ⟨4⟩ | ⟨5⟩ | ⟨6⟩ | ⟨7⟩ => .bare ⟨rfl, rfl⟩
  | ⟨2⟩ => .modrm fun _ => .mem fun _ h => ⟨h, rfl⟩
  | ⟨3⟩ => .modrm fun _ => .rm fun _ h => ⟨h, rfl⟩

theorem encodes_68_6F : ∀ z, OpcodeEncodes (opcodeAt 1 5 z)
  | ⟨0⟩ => .imm16 fun _ => ⟨rfl, rfl⟩
  | ⟨1⟩ => .modrm fun _ => .rmImm16 fun _ _ h => ⟨h, rfl⟩
  | ⟨2⟩ => .imm8 fun _ => ⟨rfl, rfl⟩
  | ⟨3⟩ => .modrm fun _ => .rmImm8 fun _ _ h => ⟨h, rfl⟩
  | ⟨4⟩ | ⟨5⟩ | ⟨6⟩ | ⟨7⟩ => .bare ⟨rfl, rfl⟩

theorem encodes_70_77 : ∀ z, OpcodeEncodes (opcodeAt 1 6 z)
  | ⟨0⟩ | ⟨1⟩ | ⟨2⟩ | ⟨3⟩ | ⟨4⟩ | ⟨5⟩ | ⟨6⟩ | ⟨7⟩ => .imm8 fun _ => ⟨rfl, rfl⟩

theorem encodes_78_7F : ∀ z, OpcodeEncodes (opcodeAt 1 7 z)
  | ⟨0⟩ | ⟨1⟩ | ⟨2⟩ | ⟨3⟩ | ⟨4⟩ | ⟨5⟩ | ⟨6⟩ | ⟨7⟩ => .imm8 fun _ => ⟨rfl, rfl⟩

theorem encodes_80_87 : ∀ z, OpcodeEncodes (opcodeAt 2 0 z)
  | ⟨0⟩ | ⟨2⟩ | ⟨3⟩ => .modrm fun reg => .rmImm8 fun _ _ h => immedGroup_writtenAs reg h _
  | ⟨1⟩ => .modrm fun reg => .rmImm16 fun _ _ h => immedGroup_writtenAs reg h _
  | ⟨4⟩ | ⟨5⟩ | ⟨6⟩ | ⟨7⟩ => .modrm fun _ => .rm fun _ h => ⟨h, rfl⟩

theorem encodes_88_8F : ∀ z, OpcodeEncodes (opcodeAt 2 1 z)
  | ⟨0⟩ | ⟨1⟩ | ⟨2⟩ | ⟨3⟩ => .modrm fun _ => .rm fun _ h => ⟨h, rfl⟩
  | ⟨4⟩ => .modrm movFromSreg_encodes
  | ⟨5⟩ => .modrm fun _ => .mem fun _ h => ⟨h, rfl⟩
  | ⟨6⟩ => .modrm movToSreg_encodes
  | ⟨7⟩ => .modrm (onlyReg0_encodes (.rm fun _ h => ⟨h, rfl⟩))

theorem encodes_90_97 : ∀ z, OpcodeEncodes (opcodeAt 2 2 z)
  | ⟨0⟩ | ⟨1⟩ | ⟨2⟩ | ⟨3⟩ | ⟨4⟩ | ⟨5⟩ | ⟨6⟩ | ⟨7⟩ => .bare ⟨rfl, rfl⟩

theorem encodes_98_9F : ∀ z, OpcodeEncodes (opcodeAt 2 3 z)
  | ⟨0⟩ | ⟨1⟩ | ⟨3⟩ | ⟨4⟩ | ⟨5⟩ | ⟨6⟩ | ⟨7⟩ => .bare ⟨rfl, rfl⟩
  | ⟨2⟩ => .far fun _ _ => ⟨rfl, rfl⟩

theorem encodes_A0_A7 : ∀ z, OpcodeEncodes (opcodeAt 2 4 z)
  | ⟨0⟩ | ⟨1⟩ | ⟨2⟩ | ⟨3⟩ => .imm16 fun _ => ⟨rfl, rfl⟩
  | ⟨4⟩ | ⟨5⟩ | ⟨6⟩ | ⟨7⟩ => .bare ⟨rfl, rfl⟩

theorem encodes_A8_AF : ∀ z, OpcodeEncodes (opcodeAt 2 5 z)
  | ⟨0⟩ => .imm8 fun _ => ⟨rfl, rfl⟩
  | ⟨1⟩ => .imm16 fun _ => ⟨rfl, rfl⟩
  | ⟨2⟩ | ⟨3⟩ | ⟨4⟩ | ⟨5⟩ | ⟨6⟩ | ⟨7⟩ => .bare ⟨rfl, rfl⟩

theorem encodes_B0_B7 : ∀ z, OpcodeEncodes (opcodeAt 2 6 z)
  | ⟨0⟩ | ⟨1⟩ | ⟨2⟩ | ⟨3⟩ | ⟨4⟩ | ⟨5⟩ | ⟨6⟩ | ⟨7⟩ => .imm8 fun _ => ⟨rfl, rfl⟩

theorem encodes_B8_BF : ∀ z, OpcodeEncodes (opcodeAt 2 7 z)
  | ⟨0⟩ | ⟨1⟩ | ⟨2⟩ | ⟨3⟩ | ⟨4⟩ | ⟨5⟩ | ⟨6⟩ | ⟨7⟩ => .imm16 fun _ => ⟨rfl, rfl⟩

theorem encodes_C0_C7 : ∀ z, OpcodeEncodes (opcodeAt 3 0 z)
  | ⟨0⟩ => .modrm (shiftGroupImm_encodes .byte)
  | ⟨1⟩ => .modrm (shiftGroupImm_encodes .word)
  | ⟨2⟩ => .imm16 fun _ => ⟨rfl, rfl⟩
  | ⟨3⟩ => .bare ⟨rfl, rfl⟩
  | ⟨4⟩ | ⟨5⟩ => .modrm fun _ => .mem fun _ h => ⟨h, rfl⟩
  | ⟨6⟩ => .modrm (onlyReg0_encodes (.rmImm8 fun _ _ h => ⟨h, rfl⟩))
  | ⟨7⟩ => .modrm (onlyReg0_encodes (.rmImm16 fun _ _ h => ⟨h, rfl⟩))

theorem encodes_C8_CF : ∀ z, OpcodeEncodes (opcodeAt 3 1 z)
  | ⟨0⟩ => .imm16imm8 fun _ _ => ⟨rfl, rfl⟩
  | ⟨1⟩ | ⟨3⟩ | ⟨4⟩ | ⟨6⟩ | ⟨7⟩ => .bare ⟨rfl, rfl⟩
  | ⟨2⟩ => .imm16 fun _ => ⟨rfl, rfl⟩
  | ⟨5⟩ => .imm8 fun _ => ⟨rfl, rfl⟩

theorem encodes_D0_D7 : ∀ z, OpcodeEncodes (opcodeAt 3 2 z)
  | ⟨0⟩ => .modrm (shiftGroup1_encodes .byte)
  | ⟨1⟩ => .modrm (shiftGroup1_encodes .word)
  | ⟨2⟩ => .modrm (shiftGroupCl_encodes .byte)
  | ⟨3⟩ => .modrm (shiftGroupCl_encodes .word)
  | ⟨4⟩ | ⟨5⟩ => .baseTen ⟨rfl, rfl⟩
  | ⟨6⟩ | ⟨7⟩ => .bare ⟨rfl, rfl⟩

theorem encodes_D8_DF : ∀ z, OpcodeEncodes (opcodeAt 3 3 z)
  | ⟨0⟩ | ⟨1⟩ | ⟨2⟩ | ⟨3⟩ | ⟨4⟩ | ⟨5⟩ | ⟨6⟩ | ⟨7⟩ => .modrm fun _ => .rm fun _ h => ⟨h, rfl⟩

theorem encodes_E0_E7 : ∀ z, OpcodeEncodes (opcodeAt 3 4 z)
  | ⟨0⟩ | ⟨1⟩ | ⟨2⟩ | ⟨3⟩ | ⟨4⟩ | ⟨5⟩ | ⟨6⟩ | ⟨7⟩ => .imm8 fun _ => ⟨rfl, rfl⟩

theorem encodes_E8_EF : ∀ z, OpcodeEncodes (opcodeAt 3 5 z)
  | ⟨0⟩ | ⟨1⟩ => .imm16 fun _ => ⟨rfl, rfl⟩
  | ⟨2⟩ => .far fun _ _ => ⟨rfl, rfl⟩
  | ⟨3⟩ => .imm8 fun _ => ⟨rfl, rfl⟩
  | ⟨4⟩ | ⟨5⟩ | ⟨6⟩ | ⟨7⟩ => .bare ⟨rfl, rfl⟩

theorem encodes_F0_F7 : ∀ z, OpcodeEncodes (opcodeAt 3 6 z)
  | ⟨0⟩ | ⟨1⟩ | ⟨2⟩ | ⟨3⟩ | ⟨4⟩ | ⟨5⟩ => .bare ⟨rfl, rfl⟩
  | ⟨6⟩ => .modrm (group1_encodes .byte)
  | ⟨7⟩ => .modrm (group1_encodes .word)

theorem encodes_F8_FF : ∀ z, OpcodeEncodes (opcodeAt 3 7 z)
  | ⟨0⟩ | ⟨1⟩ | ⟨2⟩ | ⟨3⟩ | ⟨4⟩ | ⟨5⟩ => .bare ⟨rfl, rfl⟩
  | ⟨6⟩ => .modrm group2Byte_encodes
  | ⟨7⟩ => .modrm group2Word_encodes

/-- Rows 4 to 7 of the map. -/
theorem encodes_40_7F (y z : Reg) : OpcodeEncodes (opcodeAt 1 y z) := by
  match y with
  | ⟨0⟩ | ⟨1⟩ | ⟨2⟩ | ⟨3⟩ => exact encodes_40_5F _ (by decide) z
  | ⟨4⟩ => exact encodes_60_67 z
  | ⟨5⟩ => exact encodes_68_6F z
  | ⟨6⟩ => exact encodes_70_77 z
  | ⟨7⟩ => exact encodes_78_7F z

/-- Rows 8 to B of the map. -/
theorem encodes_80_BF (y z : Reg) : OpcodeEncodes (opcodeAt 2 y z) := by
  match y with
  | ⟨0⟩ => exact encodes_80_87 z
  | ⟨1⟩ => exact encodes_88_8F z
  | ⟨2⟩ => exact encodes_90_97 z
  | ⟨3⟩ => exact encodes_98_9F z
  | ⟨4⟩ => exact encodes_A0_A7 z
  | ⟨5⟩ => exact encodes_A8_AF z
  | ⟨6⟩ => exact encodes_B0_B7 z
  | ⟨7⟩ => exact encodes_B8_BF z

/-- Rows C to F of the map. -/
theorem encodes_C0_FF (y z : Reg) : OpcodeEncodes (opcodeAt 3 y z) := by
  match y with
  | ⟨0⟩ => exact encodes_C0_C7 z
  | ⟨1⟩ => exact encodes_C8_CF z
  | ⟨2⟩ => exact encodes_D0_D7 z
  | ⟨3⟩ => exact encodes_D8_DF z
  | ⟨4⟩ => exact encodes_E0_E7 z
  | ⟨5⟩ => exact encodes_E8_EF z
  | ⟨6⟩ => exact encodes_F0_F7 z
  | ⟨7⟩ => exact encodes_F8_FF z

/-- Every opcode lies in one of the half rows. -/
theorem opcodeFormat_encodes (op : Byte) : OpcodeEncodes op := by
  have hop : opcodeAt (modField op) (regField op) (rmField op) = op := modrmByte_fields op
  rw [← hop]
  match modField op with
  | ⟨0⟩ => exact encodes_alu _ _
  | ⟨1⟩ => exact encodes_40_7F _ _
  | ⟨2⟩ => exact encodes_80_BF _ _
  | ⟨3⟩ => exact encodes_C0_FF _ _

theorem page0FFormat_encodes (op2 : Byte) : (page0FFormat op2).Encodes [0x0F, op2] := by
  obtain rfl | rfl | rfl | rfl | rfl | h := page0F_cases op2
  · exact .modrm pvam0_encodes
  · exact .modrm pvam1_encodes
  · exact .modrm fun _ => .rm fun _ h => ⟨h, rfl⟩
  · exact .modrm fun _ => .rm fun _ h => ⟨h, rfl⟩
  · exact .bare ⟨rfl, rfl⟩
  · rw [page0FFormat_of_undefined h]
    exact .bare ⟨h, rfl⟩

/-- What the grammar reads is well formed and written as it was read: the map does so, and its gaps are listed. -/
theorem Instr.ReadFrom.writtenAs {l : List Byte} {i : Instr} (h : i.ReadFrom l) : i.WrittenAs l := by
  cases h with
  | @oneByte op _ _ h =>
    exact (opcodeFormat_encodes op).writtenAs h fun b hb => ⟨(undefinedGroup_eq_gap op b).trans hb, rfl⟩
  | @page0F op op2 _ _ hop h =>
    obtain rfl := eq_0F_of_escape hop
    exact (page0FFormat_encodes op2).writtenAs h fun b hb => ⟨(undefinedGroup0F_eq_gap op2 b).trans hb, rfl⟩

end Sys2Proof

/-! What the encoder writes is read as the instruction it was written for, and the round trips. -/

namespace Sys2Proof

/-- A well-formed undefined encoding is read as undefined. -/
theorem Undefined.readFrom_encode {u : Undefined} (h : u.wf = true) : (Instr.undefined u).ReadFrom u.encode := by
  cases u with
  | oneByte op =>
    have hf : (opcodeFormat op).Reads (.group op) [] (.undefined (.oneByte op)) := by
      rw [opcodeFormat_of_undefined h]
      exact .bare
    exact .oneByte hf
  | page0F op2 =>
    have hf : (page0FFormat op2).Reads (.group0F op2) [] (.undefined (.page0F op2)) := by
      rw [page0FFormat_of_undefined h]
      exact .bare
    exact .page0F rfl hf
  | group op b => exact .oneByte (.of_gap _ ((undefinedGroup_eq_gap op b).symm.trans h))
  | group0F op2 b => exact .page0F rfl (.of_gap _ ((undefinedGroup0F_eq_gap op2 b).symm.trans h))

/-- A well-formed instruction is read from its encoding. -/
theorem Instr.readFrom_encode {i : Instr} (h : i.wf = true) : i.ReadFrom (encode i) := by
  cases i with
  | pusha | popa | nop | xlat | lahf | sahf | pushf | popf | aaa | daa | aas | das | cbw | cwd | rep | repne | retNear
  | retFar | leave | int3 | into | iret | clc | cmc | stc | cld | std | cli | sti | hlt | lock | wait =>
    exact .oneByte .bare
  | inDx w | outDx w | movs w | cmps w | scas w | lods w | stos w | ins w | outs w =>
    cases w <;> exact .oneByte .bare
  | pushReg r | popReg r | incReg r | decReg r =>
    match r with
    | ⟨0⟩ | ⟨1⟩ | ⟨2⟩ | ⟨3⟩ | ⟨4⟩ | ⟨5⟩ | ⟨6⟩ | ⟨7⟩ => exact .oneByte .bare
  | xchgAx r =>
    match r with
    | ⟨0⟩ => contradiction
    | ⟨1⟩ | ⟨2⟩ | ⟨3⟩ | ⟨4⟩ | ⟨5⟩ | ⟨6⟩ | ⟨7⟩ => exact .oneByte .bare
  | pushSreg sr | segOverride sr => cases sr <;> exact .oneByte .bare
  | popSreg sr =>
    cases sr with
    | cs => contradiction
    | es | ss | ds => exact .oneByte .bare
  | aam | aad => exact .oneByte .baseTen
  | jmpShort | jo | jno | jb | jnb | je | jne | jbe | jnbe | js | jns | jp | jnp | jl | jnl | jle | jnle | loop | loopz
  | loopnz | jcxz | intN =>
    exact .oneByte .imm8
  | inPort w | outPort w => cases w <;> exact .oneByte .imm8
  | jmpNear | callNear | retNearImm | retFarImm => exact .oneByte .imm16
  | movAccMem w | movMemAcc w => cases w <;> exact .oneByte .imm16
  | enter => exact .oneByte .imm16imm8
  | jmpFar | callFar => exact .oneByte .far
  | pushImm i =>
    cases i with
    | word => exact .oneByte .imm16
    | sx => exact .oneByte .imm8
  | movRegImm r i =>
    match r with
    | ⟨0⟩ | ⟨1⟩ | ⟨2⟩ | ⟨3⟩ | ⟨4⟩ | ⟨5⟩ | ⟨6⟩ | ⟨7⟩ =>
      cases i with
      | byte => exact .oneByte .imm8
      | word => exact .oneByte .imm16
  | addAccImm i | adcAccImm i | subAccImm i | sbbAccImm i | cmpAccImm i | andAccImm i | testAccImm i | orAccImm i
  | xorAccImm i =>
    cases i with
    | byte => exact .oneByte .imm8
    | word => exact .oneByte .imm16
  | pushRm | popRm | jmpRm | callRm | arpl => exact .oneByte (.modrm (.rm h))
  | movRmReg w | movRegRm w | xchgRmReg w | testRmReg w | incRm w | decRm w | notRm w | negRm w | mulRm w | imulRm w
  | divRm w | idivRm w | rolRm1 w | rolRmCl w | rorRm1 w | rorRmCl w | rclRm1 w | rclRmCl w | rcrRm1 w | rcrRmCl w
  | shlRm1 w | shlRmCl w | shrRm1 w | shrRmCl w | sarRm1 w | sarRmCl w =>
    cases w <;> exact .oneByte (.modrm (.rm h))
  | addRmReg w d | adcRmReg w d | subRmReg w d | sbbRmReg w d | cmpRmReg w d | andRmReg w d | orRmReg w d
  | xorRmReg w d =>
    cases w <;> cases d <;> exact .oneByte (.modrm (.rm h))
  | esc ttt =>
    match ttt with
    | ⟨0⟩ | ⟨1⟩ | ⟨2⟩ | ⟨3⟩ | ⟨4⟩ | ⟨5⟩ | ⟨6⟩ | ⟨7⟩ => exact .oneByte (.modrm (.rm h))
  | movRmSreg rm sr => cases sr <;> exact .oneByte (.modrm (.rm h))
  | movSregRm sr rm =>
    cases sr with
    | cs => contradiction
    | es | ss | ds => exact .oneByte (.modrm (.rm h))
  | lea | lds | les | bound | jmpFarMem | callFarMem => exact .oneByte (.modrm (.mem h))
  | rolRmImm w | rorRmImm w | rclRmImm w | rcrRmImm w | shlRmImm w | shrRmImm w | sarRmImm w =>
    cases w <;> exact .oneByte (.modrm (.rmImm8 h))
  | imulRegRmImm _ _ i =>
    cases i with
    | word => exact .oneByte (.modrm (.rmImm16 h))
    | sx => exact .oneByte (.modrm (.rmImm8 h))
  | movRmImm _ i | testRmImm _ i =>
    cases i with
    | byte => exact .oneByte (.modrm (.rmImm8 h))
    | word => exact .oneByte (.modrm (.rmImm16 h))
  | addRmImm _ i | adcRmImm _ i | subRmImm _ i | sbbRmImm _ i | cmpRmImm _ i | andRmImm _ i | orRmImm _ i
  | xorRmImm _ i =>
    cases i with
    | byte byte82 => cases byte82 <;> exact .oneByte (.modrm (.rmImm8 h))
    | word => exact .oneByte (.modrm (.rmImm16 h))
    | sx => exact .oneByte (.modrm (.rmImm8 h))
  | clts => exact .page0F rfl .bare
  | lldt | sldt | ltr | str | verr | verw | lmsw | smsw | lar | lsl => exact .page0F rfl (.modrm (.rm h))
  | lgdt | sgdt | lidt | sidt => exact .page0F rfl (.modrm (.mem h))
  | undefined u => exact u.readFrom_encode h

/-- Settles O4: the decoder answers what the grammar reads, and the grammar reads the encoding of the instruction. -/
theorem encodeDecode : Obligations.EncodeDecode :=
  fun _ _ h => decode_iff.2 ⟨_, Instr.readFrom_encode h, rfl⟩

/-- Settles O5: what the decoder answers the grammar reads, and what the grammar reads is written as it was read. -/
theorem decodeEncode : Obligations.DecodeEncode := by
  intro bytes rest i h
  obtain ⟨l, hl, rfl⟩ := decode_iff.1 h
  obtain ⟨hwf, hencode⟩ := hl.writtenAs
  exact ⟨hwf, congrArg (· ++ rest) hencode⟩

/-- Settles O6: each of the seven words is decoded. -/
theorem decodedWords : Obligations.DecodedWords := ⟨rfl, rfl, rfl, rfl, rfl, rfl, rfl⟩

end Sys2Proof

/-! MOV, LEA, XLAT, LAHF, CBW and CWD (40_data_transfer.md R201 to R208, R224, R225, R228, 41_arithmetic.md R274, R275):
each is one write of r/m. -/

namespace Sys2Proof.Machine

/-! One write of r/m. -/

theorem writeRm_ok {rm : Rm} {w : Width} {s : State} (h : s.rmStop rm w true = none) (v : BitVec w.bits) :
    writeRm rm w v s = .ok () (s.setRm rm w v) := by rw [writeRm_eq, h]

theorem segRead_ok {r : SReg} {off : Word} {w : Width} {s : State} (h : s.accessStop r off w false = none) :
    segRead r off w s = .ok (s.load r off w) s := by rw [segRead_eq, h]

theorem segWrite_ok {r : SReg} {off : Word} {w : Width} {s : State} (h : s.accessStop r off w true = none)
    (v : BitVec w.bits) : segWrite r off w v s = .ok () (s.store r off w v) := by rw [segWrite_eq, h]

/-- A write of r/m leaves the flags and draws no free value. -/
theorem State.endInstruction_setRm (s : State) (rm : Rm) (w : Width) (v : BitVec w.bits) :
    (s.setRm rm w v).endInstruction =
      { s.setRm rm w v with flags := s.flags, free := s.free + 0, pfx := noPrefixes } := by
  simp [endInstruction]

/-- An instruction whose effect is one write of r/m. -/
theorem State.Ready.writesRm {i : Instr} {m : M Unit} {s : State} {rm : Rm} {w : Width} {v : BitVec w.bits}
    (hs : s.Ready) (hi : exec i s = perform m s) (hm : m s = .ok () (s.setRm rm w v)) :
    WritesRm i s rm w v s.flags 0 :=
  ⟨(hs.completes hi hm).trans (congrArg _ (s.endInstruction_setRm rm w v)), s.sameRegs_setRm rm w v,
    s.sameMemory_setRm rm w v⟩

/-- An instruction whose effect is one write of a general register. -/
theorem State.Ready.writesReg {i : Instr} {m : M Unit} {s : State} {w : Width} {r : Reg} {v : BitVec w.bits}
    (hs : s.Ready) (hi : exec i s = perform m s) (hm : m s = .ok () (s.putReg w r v)) :
    WritesReg i s w r v s.flags 0 := hs.writesRm (rm := .reg r) hi hm

/-! The direct address, the operand of the accumulator forms. -/

theorem State.rmStop_direct (s : State) (off : Word) (w : Width) (write : Bool) :
    s.rmStop (.mem (.direct off)) w write = s.accessStop (s.overrideOr .ds) off w write :=
  congrArg (s.accessStop (s.overrideOr .ds) · w write) (BitVec.add_zero off)

theorem State.rmValue_direct (s : State) (off : Word) (w : Width) :
    s.rmValue (.mem (.direct off)) w = s.load (s.overrideOr .ds) off w :=
  congrArg (s.load (s.overrideOr .ds) · w) (BitVec.add_zero off)

theorem State.setRm_direct (s : State) (off : Word) (w : Width) (v : BitVec w.bits) :
    s.setRm (.mem (.direct off)) w v = s.store (s.overrideOr .ds) off w v :=
  congrArg (s.store (s.overrideOr .ds) · w v) (BitVec.add_zero off)

/-- Settles O14: every form of MOV to r/m or memory is one write of the operand. -/
theorem movToRm : Obligations.MovToRm := by
  intro s rm hs
  refine ⟨fun w r h => ?_, fun i h => ?_, fun sr h => ?_, fun w off h => ?_⟩
  · exact hs.writesRm rfl (writeRm_ok h (s.getReg w r))
  · exact hs.writesRm rfl (writeRm_ok h (immValue i))
  · exact hs.writesRm rfl (writeRm_ok h (s.seg sr).sel)
  · rw [State.rmStop_direct] at h
    refine hs.writesRm rfl ((segWrite_ok h (s.acc w)).trans ?_)
    rw [State.setRm_direct, State.acc]

/-- Settles O15: each reads its source and writes one general register. -/
theorem loadRegister : Obligations.LoadRegister := by
  intro s hs
  refine ⟨fun w r rm h => ?_, fun r i => ?_, fun w off h => ?_, fun r m => ?_, fun h => ?_, ?_, ?_, ?_⟩
  · exact hs.writesReg rfl (bind_ok (readRm_ok h))
  · exact hs.writesReg rfl rfl
  · rw [State.rmStop_direct] at h
    rw [State.rmValue_direct]
    exact hs.writesReg rfl (bind_ok (segRead_ok h))
  · exact hs.writesReg rfl rfl
  · exact hs.writesReg rfl (bind_ok (segRead_ok h))
  · exact hs.writesReg rfl rfl
  · exact hs.writesReg rfl rfl
  · refine hs.writesReg rfl ?_
    rw [update_apply, BitVec.msb_eq_toInt]
    simp only [decide_eq_true_eq]
    rfl

end Sys2Proof.Machine

/-! XCHG and NOP (40_data_transfer.md R218, R219). -/

namespace Sys2Proof.Machine

/-! Registers of either width: reading after writing, and that a write changes the registers only. -/

@[simp] theorem State.putReg_getReg (s : State) (w : Width) (r : Reg) (v : BitVec w.bits) :
    (s.putReg w r v).getReg w r = v := by
  cases w with
  | byte => exact s.setReg8_reg8 r v
  | word => exact s.setReg_reg r v

theorem State.putReg_getReg_ne (s : State) (w : Width) {r q : Reg} (v : BitVec w.bits) (h : q ≠ r) :
    (s.putReg w r v).getReg w q = s.getReg w q := by
  cases w with
  | byte => exact s.setReg8_reg8_ne v h
  | word => exact s.setReg_reg_ne v h

/-- A write of a register depends on the registers only, and leaves everything else. -/
theorem State.putReg_of_same_regs {s t : State} (h : t.regs = s.regs) (w : Width) (r : Reg) (v : BitVec w.bits) :
    t.putReg w r v = { t with regs := (s.putReg w r v).regs } := by
  have hreg (q : Reg) : t.reg q = s.reg q := by rw [reg, reg, h]
  cases w with
  | word => rw [putReg, putReg, setReg, setReg, h]
  | byte =>
    simp only [putReg, setReg8, setReg, hreg, h]
    split <;> rfl

theorem State.putReg_eq (s : State) (w : Width) (r : Reg) (v : BitVec w.bits) :
    s.putReg w r v = { s with regs := (s.putReg w r v).regs } := putReg_of_same_regs rfl w r v

@[simp] theorem State.getReg_endInstruction (s : State) (w : Width) (r : Reg) :
    s.endInstruction.getReg w r = s.getReg w r := by cases w <;> rfl

theorem State.sameRegs_putReg (s : State) (w : Width) (r : Reg) (v : BitVec w.bits) :
    s.SameRegs (s.putReg w r v) (rmRegs (.reg r) w) := s.sameRegs_setRm (.reg r) w v

/-- The state with two registers of a width traded. -/
def State.tradeRegs (s : State) (w : Width) (q r : Reg) : State :=
  (s.putReg w q (s.getReg w r)).putReg w r (s.getReg w q)

section
variable (s : State) (w : Width) (q r : Reg)

theorem State.tradeRegs_right : (s.tradeRegs w q r).getReg w r = s.getReg w q := State.putReg_getReg _ w r _

theorem State.tradeRegs_left : (s.tradeRegs w q r).getReg w q = s.getReg w r := by
  by_cases h : q = r
  · rw [h, s.tradeRegs_right w r r]
  · rw [tradeRegs, putReg_getReg_ne _ w _ h, putReg_getReg]

theorem State.tradeRegs_other {p : Reg} (hq : p ≠ q) (hr : p ≠ r) : (s.tradeRegs w q r).getReg w p = s.getReg w p := by
  rw [tradeRegs, putReg_getReg_ne _ w _ hr, putReg_getReg_ne _ w _ hq]

theorem State.sameRegs_tradeRegs :
    s.SameRegs (s.tradeRegs w q r) (rmRegs (.reg q) w ++ rmRegs (.reg r) w) :=
  (s.sameRegs_putReg w q _).trans (State.sameRegs_putReg _ w r _)

theorem State.tradeRegs_eq : s.tradeRegs w q r = { s with regs := (s.tradeRegs w q r).regs } := by
  conv => lhs; rw [tradeRegs, putReg_eq, putReg_eq s]
  rw [tradeRegs, putReg_eq s]

end

/-- XCHG of r/m whose operand may be written: r/m first, then the register with what r/m held. -/
theorem execXchgRmReg_ok {s : State} (hs : s.Ready) {rm : Rm} {w : Width} (h : s.rmStop rm w true = none) (r : Reg) :
    exec (.xchgRmReg w rm r) s =
      .next ((s.setRm rm w (s.getReg w r)).putReg w r (s.rmValue rm w)).endInstruction :=
  hs.completes rfl (bind_ok (check_none h))

/-- Settles O16: XCHG writes the two operands with what the other held. -/
theorem exchange : Obligations.Exchange := by
  intro s hs
  refine ⟨hs.completes rfl rfl, fun r => ?_, fun w m r h => ?_, fun w q r => ?_⟩
  · exact ⟨hs.completes rfl rfl, s.tradeRegs_left .word AX r, s.tradeRegs_right .word AX r,
      s.sameRegs_tradeRegs .word AX r⟩
  · refine ⟨execXchgRmReg_ok hs h r, fun p hp => ?_, fun a ha => ?_⟩
    · exact (State.sameRegs_putReg (s.setMem m 0 w (s.getReg w r)) w r _ p hp).trans (s.reg_setMem ..)
    · have hput := State.putReg_mem (s.setMem m 0 w (s.getReg w r)) w r (s.memValue m 0 w)
      exact (congrArg (Memory.read · a) hput).trans (s.sameMemory_setRm (.mem m) w _ a ha)
  · refine ⟨execXchgRmReg_ok hs rfl r, ?_, ?_, fun p hq hr => ?_, s.sameRegs_tradeRegs w q r, ?_⟩
    · exact (State.getReg_endInstruction _ w q).trans (s.tradeRegs_left w q r)
    · exact (State.getReg_endInstruction _ w r).trans (s.tradeRegs_right w q r)
    · exact (State.getReg_endInstruction _ w p).trans (s.tradeRegs_other w q r hq hr)
    · exact congrArg State.endInstruction (s.tradeRegs_eq w q r)

end Sys2Proof.Machine

/-! PUSHA and POPA (40_data_transfer.md R213, R217): a stack frame in memory, and a stack frame in the registers. -/

namespace Sys2Proof.Machine

/-! The end of an instruction uses up its prefixes, which are neither register nor memory. -/

theorem State.SameRegs.endInstruction {s t : State} {l : List Reg} (h : s.SameRegs t l) :
    s.SameRegs t.endInstruction l := h

theorem State.SameMemory.endInstruction {s t : State} {l : List Nat} (h : s.SameMemory t l) :
    s.SameMemory t.endInstruction l := h

/-! PUSHA. -/

/-- A frame changes no byte outside its words. -/
theorem State.sameMemory_writeFrame (s : State) (g : SegReg) (sp : Word) (words : List Word) :
    s.SameMemory (s.writeFrame g sp words) (s.frameCells g sp words.length) := by
  induction words generalizing s sp with
  | nil => exact fun _ _ => rfl
  | cons v rest ih =>
    have hbelow := ih (s.storeVia g (sp - 2) .word v) (sp - 2)
    rw [frameCells_storeVia] at hbelow
    rw [List.length_cons, frameCells_succ]
    exact (s.sameMemory_storeVia g (sp - 2) .word v).trans hbelow

/-- The state in which PUSHA completes. -/
def State.pushedAll (s : State) : State := (s.writeFrame s.ss (s.reg SP) s.allRegs).setReg SP (s.reg SP - 16)

theorem State.sameRegs_pushedAll (s : State) : s.SameRegs s.pushedAll [SP] :=
  fun r hr => ((s.writeFrame s.ss (s.reg SP) s.allRegs).sameRegs_setReg SP _ r hr).trans (s.reg_writeFrame ..)

theorem State.sameMemory_pushedAll (s : State) : s.SameMemory s.pushedAll (s.pushCells 8) :=
  s.sameMemory_writeFrame s.ss (s.reg SP) s.allRegs

/-- In real mode no word of the frame crosses offset 0xFFFF at an even SP, or where all sixteen bytes lie below SP. -/
theorem pushAllReal_ok {s : State} (h : (s.reg SP).toNat % 2 = 0 ∨ 16 ≤ (s.reg SP).toNat) :
    pushAllReal s = .ok () s.pushedAll := by
  have hfits : ¬((s.reg SP).toNat % 2 = 1 ∧ (s.reg SP).toNat / 2 < 8) := by omega
  simp only [pushAllReal, look_bind, if_neg hfits]
  rfl

theorem pushAllProtected_ok {s : State} (hstop : frameStop s s.ss (s.reg SP) 8 = none)
    (h : s.reg SP = 0 ∨ 16 ≤ (s.reg SP).toNat) : pushAllProtected s = .ok () s.pushedAll := by
  have hfits : ¬(1 ≤ (s.reg SP).toNat ∧ (s.reg SP).toNat < 16) := by
    rcases h with h | h
    · simp [h]
    · omega
  simp only [pushAllProtected, look_bind, if_neg hfits, check_bind, hstop]
  rfl

/-! POPA: slot `k` of the frame is the register `7 - k`, and slot 3, that of SP, is discarded. -/

/-- The register of a slot of the frame of POPA. -/
def slotReg (k : Nat) : Reg := BitVec.ofNat 3 (7 - k)

theorem slotReg_ne {j k : Nat} (h : j < k) (hk : k < 8) : slotReg j ≠ slotReg k := by
  intro e
  have := congrArg BitVec.toNat e
  simp only [slotReg, BitVec.toNat_ofNat] at this
  omega

theorem State.popSlots_succ (s : State) (sp : Word) {k : Nat} (h : k ≠ 3) :
    s.popSlots sp (k + 1) =
      (s.popSlots sp k).setReg (slotReg k) (s.load .ss (sp + BitVec.ofNat 16 (2 * k)) .word) := if_neg h

/-- The slots of a frame change the registers only. -/
theorem State.popSlots_eq (s : State) (sp : Word) (count : Nat) :
    s.popSlots sp count = { s with regs := (s.popSlots sp count).regs } := by
  induction count with
  | zero => rfl
  | succ k ih =>
    by_cases hk : k = 3
    · subst hk
      exact ih
    · rw [popSlots_succ s sp hk]
      conv => lhs; rw [ih]
      rfl

/-- The register of a slot holds its word. -/
theorem State.popSlots_reg (s : State) (sp : Word) {k count : Nat} (hk : k < count) (hcount : count ≤ 8)
    (hsp : k ≠ 3) :
    (s.popSlots sp count).reg (slotReg k) = s.load .ss (sp + BitVec.ofNat 16 (2 * k)) .word := by
  induction count with
  | zero => omega
  | succ n ih =>
    rcases Nat.lt_succ_iff_lt_or_eq.mp hk with hlt | rfl
    · by_cases hn : n = 3
      · subst hn
        exact ih hlt (by omega)
      · rw [popSlots_succ s sp hn, setReg_reg_ne _ _ (slotReg_ne hlt (by omega))]
        exact ih hlt (by omega)
    · rw [popSlots_succ s sp hsp, setReg_reg]

/-- The state in which POPA completes. -/
def State.poppedAll (s : State) : State := (s.popSlots (s.reg SP) 8).setReg SP (s.reg SP + 16)

/-- POPA writes registers only. -/
theorem State.endInstruction_poppedAll (s : State) :
    s.poppedAll.endInstruction = { s with regs := s.poppedAll.regs, pfx := noPrefixes } := by
  have hregs : s.poppedAll = { s with regs := s.poppedAll.regs } := by
    conv => lhs; rw [poppedAll, popSlots_eq]
    rfl
  conv => lhs; rw [hregs]
  rfl

/-- The register of a slot, SP's excepted, holds the word of the slot. -/
theorem State.poppedAll_reg (s : State) {k : Nat} (hk : k < 8) (hsp : k ≠ 3) :
    s.poppedAll.reg (slotReg k) = s.load .ss (s.reg SP + BitVec.ofNat 16 (2 * k)) .word := by
  have hne : slotReg k ≠ SP := by
    intro e
    have := congrArg BitVec.toNat e
    simp only [slotReg, BitVec.toNat_ofNat] at this
    omega
  rw [poppedAll, setReg_reg_ne _ _ hne, s.popSlots_reg _ hk le_rfl hsp]

theorem State.poppedAll_SP (s : State) : s.poppedAll.reg SP = s.reg SP + 16 := State.setReg_reg _ SP _

theorem popAllReal_ok {s : State} (h : (s.reg SP).toNat % 2 = 0 ∨ (s.reg SP).toNat < 0xFFF1) :
    popAllReal s = .ok () s.poppedAll := by
  have hfits : ¬((s.reg SP).toNat % 2 = 1 ∧ (0xFFFF - (s.reg SP).toNat) / 2 < 8 ∧
      (0xFFFF - (s.reg SP).toNat) / 2 ≠ 3) := by omega
  simp only [popAllReal, look_bind, if_neg hfits]
  rfl

theorem popAllProtected_ok {s : State} (hstop : s.popFrameStop (s.reg SP) 8 = none)
    (h : (s.reg SP).toNat < 0xFFF1) : popAllProtected s = .ok () s.poppedAll := by
  have hfits : ¬0xFFF0 < (s.reg SP).toNat := by omega
  simp only [popAllProtected, look_bind, if_neg hfits, check_bind, hstop]
  rfl

/-- An instruction with an effect for each mode completes in the state its mode's effect ends in. -/
theorem State.Ready.completesByMode {i : Instr} {prot real : M Unit} {s t : State} (hs : s.Ready)
    (hi : exec i s = perform (if s.msw.pe then prot else real) s) (hprot : s.msw.pe = true → prot s = .ok () t)
    (hreal : s.msw.pe = false → real s = .ok () t) : exec i s = .next t.endInstruction := by
  refine hs.completes hi ?_
  cases hpe : s.msw.pe
  · exact hreal hpe
  · exact hprot hpe

/-- Settles O18: where no word of the frame wraps PUSHA is one frame written, and POPA the slots of one frame read. -/
theorem pushPopAll : Obligations.PushPopAll := by
  refine ⟨fun s hs hreal hprot => ?_, fun s hs hreal hprot => ⟨s.poppedAll.endInstruction, ?_, ?_⟩⟩
  · have hexec : exec .pusha s = .next s.pushedAll.endInstruction :=
      hs.completesByMode rfl (fun hpe => pushAllProtected_ok (hprot hpe).1 (hprot hpe).2)
        fun hpe => pushAllReal_ok (hreal hpe)
    exact ⟨hexec, s.sameRegs_pushedAll.endInstruction, s.sameMemory_pushedAll.endInstruction⟩
  · exact hs.completesByMode rfl (fun hpe => popAllProtected_ok (hprot hpe).1 (hprot hpe).2)
      fun hpe => popAllReal_ok (hreal hpe)
  · have hslot {k : Nat} (hk : k < 8) (hsp : k ≠ 3) :=
      (State.reg_endInstruction s.poppedAll (slotReg k)).trans (s.poppedAll_reg hk hsp)
    have htop := hslot (k := 0) (by decide) (by decide)
    rw [Nat.mul_zero, BitVec.add_zero] at htop
    exact ⟨htop, hslot (k := 1) (by decide) (by decide), hslot (k := 2) (by decide) (by decide),
      hslot (k := 4) (by decide) (by decide), hslot (k := 5) (by decide) (by decide),
      hslot (k := 6) (by decide) (by decide), hslot (k := 7) (by decide) (by decide),
      (State.reg_endInstruction s.poppedAll SP).trans s.poppedAll_SP, s.endInstruction_poppedAll⟩

end Sys2Proof.Machine

/-! IN and OUT (20_memory.md R76, R77, 40_data_transfer.md R220 to R223). -/

namespace Sys2Proof.Machine

/-! The bytes of a word on the bus. -/

theorem zeroExtend_highByte (v : Word) : zeroExtend16 (highByte v) = v >>> 8 := by
  apply BitVec.eq_of_toNat_eq
  have := v.isLt
  simp only [BitVec.toNat_setWidth, BitVec.extractLsb'_toNat, BitVec.toNat_ushiftRight, Nat.shiftRight_eq_div_pow]
  omega

theorem zeroExtend_lowByte (v : Word) : zeroExtend16 (lowByte v) = v &&& 0x00FF := by
  apply BitVec.eq_of_toNat_eq
  have hmask : v.toNat &&& 255 = v.toNat % 256 := Nat.and_two_pow_sub_one_eq_mod v.toNat 8
  simp only [BitVec.toNat_setWidth, BitVec.extractLsb'_toNat, BitVec.toNat_and, BitVec.toNat_ofNat,
    BitVec.ofNat_eq_ofNat, Nat.shiftRight_zero, Nat.reduceMod, Nat.reducePow, hmask]
  omega

theorem splitsPort_iff (port : Word) (w : Width) : splitsPort port w = true ↔ w = .word ∧ port.toNat % 2 = 1 := by
  cases w with
  | byte => simp
  | word => simp [BitVec.getLsbD, Nat.testBit_zero]

/-- The bus operations of a transfer, the bytes of a split word written out by value. -/
theorem portOperations_eq_transferOperations (operation : Word → Width → Word → BusEvent) (port : Word) (w : Width)
    (v : Word) : portOperations operation port w v = transferOperations operation port w v := by
  simp only [portOperations, transferOperations, splitsPort_iff, zeroExtend_highByte, zeroExtend_lowByte]

theorem requireIopl_ok {s : State} (h : s.mayDoIo = true) : requireIopl s = .ok () s := require_true h

/-- The record of the bus and the count of free values are no part of a register. -/
theorem State.putReg_bus_free_comm (s : State) (b : List BusEvent) (n : Nat) (w : Width) (r : Reg)
    (v : BitVec w.bits) :
    ({ s with free := n, bus := b } : State).putReg w r v = { s.putReg w r v with free := n, bus := b } := by
  conv => rhs; rw [putReg_eq]
  exact putReg_of_same_regs (s := s) (t := { s with free := n, bus := b }) rfl w r v

/-- IN where I/O is allowed: the port is read, then the accumulator written. -/
theorem inputFrom_ok {s : State} (h : s.mayDoIo = true) (port : Word) (w : Width) :
    inputFrom port w s = .ok () { s.putReg w 0 (portValue port w s.free) with
      free := s.free + portDraws port w
      bus := portOperations .ioRead port w (asWord w (portValue port w s.free)) ++ s.bus } := by
  rw [inputFrom, bind_ok (requireIopl_ok h), bind_ok (ioRead_eq port w s), update_apply, State.setAcc,
    State.putReg_bus_free_comm]

theorem outputTo_ok {s : State} (h : s.mayDoIo = true) (port : Word) (w : Width) :
    outputTo port w s = .ok () (s.ioWrite port w (s.getReg w 0)) := bind_ok (requireIopl_ok h)

/-- Settles O20: IN is one read of the port and one write of the accumulator, OUT one write of the port. -/
theorem portTransfer : Obligations.PortTransfer := by
  intro s w hs hio
  simp only [← portOperations_eq_transferOperations]
  refine ⟨fun port => ?_, ?_, fun port => ?_, ?_⟩
  · exact hs.completes rfl (inputFrom_ok hio _ w)
  · exact hs.completes rfl (inputFrom_ok hio _ w)
  · exact hs.completes rfl (outputTo_ok hio _ w)
  · exact hs.completes rfl (outputTo_ok hio _ w)

end Sys2Proof.Machine

/-! SAHF, POPF and the flag instructions (40_data_transfer.md R229, R236, 46_processor_control.md R421 to R427). -/

namespace Sys2Proof.Machine

/-- An instruction whose effect is one write of the flags. -/
theorem State.Ready.writesFlags {i : Instr} {m : M Unit} {s : State} {f : Flags} (hs : s.Ready)
    (hi : exec i s = perform m s) (hm : m s = .ok () { s with flags := f }) : WritesFlags i s f 0 :=
  hs.completes hi hm

/-- POPF loads the flags that mode, CPL and IOPL allow. -/
theorem State.loadFlags_eq (s : State) (v : Word) : s.loadFlags v = s.poppedFlags v := by
  unfold loadFlags poppedFlags
  cases hpe : s.msw.pe
  · rfl
  · simp [Flags.loadProtected, Flags.ofImage]

theorem State.poppedFlags_setReg (s : State) (r : Reg) (u v : Word) :
    (s.setReg r u).poppedFlags v = s.poppedFlags v := rfl

theorem pop16_ok {s : State} (h : s.accessStop .ss (s.reg SP) .word false = none) :
    pop16 s = .ok (s.load .ss (s.reg SP) .word) (s.setReg SP (s.reg SP + 2)) := by rw [pop16_eq, h]

/-- POPF whose word may be read. -/
theorem execPopf_ok {s : State} (hs : s.Ready) (h : s.accessStop .ss (s.reg SP) .word false = none) :
    exec .popf s = .next (State.endInstruction { s.setReg SP (s.reg SP + 2) with
      flags := s.poppedFlags (s.load .ss (s.reg SP) .word) }) := by
  refine hs.completes rfl ((bind_ok (pop16_ok h)).trans ?_)
  rw [update_apply, State.loadFlags_eq, State.poppedFlags_setReg]

/-- STI where the IOPL test passes. -/
theorem execSti_ok {s : State} (hs : s.Ready) (h : s.mayDoIo = true) :
    exec .sti s = .next (State.endInstruction { s with
      flags := { s.flags with ie := true }, inhibitIntr := Config.stiInhibitsOneInstruction }) :=
  hs.completes rfl (bind_ok (requireIopl_ok h))

theorem State.mayDoIo_iff (s : State) : s.mayDoIo = true ↔ s.msw.pe = false ∨ s.cpl ≤ s.flags.iopl.toNat := by
  simp [mayDoIo]

/-- Settles O52: each is one write of the flags, POPF after a pop, CLI and STI where the IOPL test passes. -/
theorem flagInstructions : Obligations.FlagInstructions := by
  refine ⟨fun s hs => ⟨hs.writesFlags rfl rfl, execPopf_ok hs⟩, fun s hs => ⟨?_, ?_, ?_, ?_, ?_, fun h => ?_⟩⟩
  · exact hs.writesFlags rfl rfl
  · exact hs.writesFlags rfl rfl
  · exact hs.writesFlags rfl rfl
  · exact hs.writesFlags rfl rfl
  · exact hs.writesFlags rfl rfl
  · have hio := s.mayDoIo_iff.mpr h
    exact ⟨hs.writesFlags rfl (bind_ok (requireIopl_ok hio)), execSti_ok hs hio⟩

end Sys2Proof.Machine

/-! The sum and the difference of 41_arithmetic.md R241 and R242, and the flags they write. -/

namespace Sys2Proof.Machine

/-! PF: the parity of a list grows by one element at a time. -/

theorem even_countP_cons (p : Nat → Bool) (k : Nat) (l : List Nat) :
    decide ((k :: l).countP p % 2 = 0) = (p k ^^ decide (l.countP p % 2 = 0)) := by
  rw [List.countP_cons]
  cases p k
  · simp
  · rcases Nat.mod_two_eq_zero_or_one (l.countP p) with h | h <;> simp [h, Nat.add_mod]

theorem evenParity_eq (r : Byte) :
    evenParity r = decide (((List.range 8).countP fun k => r.getLsbD k) % 2 = 0) := by
  have hrange : List.range 8 = [0, 1, 2, 3, 4, 5, 6, 7] := rfl
  rw [hrange]
  simp only [even_countP_cons, List.countP_nil, Nat.zero_mod, decide_true, Bool.xor_true, Bool.xor_not, evenParity,
    Bool.xor_assoc]

theorem evenParity_iff {n : Nat} (r : BitVec n) :
    evenParity (r.setWidth 8) = true ↔ ((List.range 8).countP fun k => r.getLsbD k) % 2 = 0 := by
  have hcount : (List.range 8).countP (fun k => (r.setWidth 8).getLsbD k) =
      (List.range 8).countP fun k => r.getLsbD k :=
    List.countP_congr fun k hk => by simp [List.mem_range.mp hk]
  rw [evenParity_eq, hcount, decide_eq_true_eq]

/-! ZF, SF and PF of a result. -/

theorem Flags.ofResult_zf_iff {n : Nat} (f : Flags) (r : BitVec n) : (f.ofResult r).zf = true ↔ r.toNat = 0 := by
  rw [ofResult, beq_iff_eq, ← BitVec.toNat_inj, BitVec.ofNat_eq_ofNat, BitVec.toNat_ofNat, Nat.zero_mod]

theorem Flags.ofResult_sf_iff {n : Nat} (f : Flags) (r : BitVec n) : (f.ofResult r).sf = true ↔ r.toInt < 0 := by
  rw [ofResult, BitVec.msb_eq_toInt, decide_eq_true_eq]

theorem Flags.ofResult_pf_iff {n : Nat} (f : Flags) (r : BitVec n) :
    (f.ofResult r).pf = true ↔ ((List.range 8).countP fun k => r.getLsbD k) % 2 = 0 := evenParity_iff r

/-! The sum. -/

theorem addResult_toNat {n : Nat} (a b : BitVec n) (c : Bool) :
    (addResult a b c).toNat = (a.toNat + b.toNat + c.toNat) % 2 ^ n := BitVec.toNat_ofNat ..

theorem addFlags_ovf_iff {n : Nat} (f : Flags) (a b : BitVec n) (c : Bool) :
    (addFlags f a b c).ovf = true ↔ a.msb = b.msb ∧ (addResult a b c).msb ≠ a.msb := by
  simp [addFlags]

/-- Read as a signed number the result is the signed sum modulo 2^n. -/
theorem addResult_toInt {n : Nat} (a b : BitVec n) (c : Bool) :
    (addResult a b c).toInt = (a.toInt + b.toInt + c.toNat).bmod (2 ^ n) := by
  have hsum : addResult a b c = BitVec.ofInt n (a.toInt + b.toInt + c.toNat) := by
    rw [BitVec.ofInt_add, BitVec.ofInt_add, BitVec.ofInt_toInt, BitVec.ofInt_toInt, BitVec.ofInt_natCast, addResult,
      BitVec.ofNat_add, BitVec.ofNat_add, BitVec.ofNat_toNat, BitVec.ofNat_toNat, BitVec.setWidth_eq,
      BitVec.setWidth_eq]
  rw [hsum, BitVec.toInt_ofInt]

/-- A sum of two signed numbers and a carry leaves the signed range exactly where the operands agree in sign and the
result does not. -/
theorem msb_addResult_iff {w : Width} (a b : BitVec w.bits) (c : Bool) :
    (a.msb = b.msb ∧ (addResult a b c).msb ≠ a.msb) ↔ a.toInt + b.toInt + c.toNat ≠ (addResult a b c).toInt := by
  have hc := Bool.toNat_le c
  have ha := a.le_toInt
  have ha' := a.toInt_lt
  have hb := b.le_toInt
  have hb' := b.toInt_lt
  rw [BitVec.msb_eq_toInt, BitVec.msb_eq_toInt, BitVec.msb_eq_toInt, addResult_toInt]
  simp only [decide_eq_decide, ne_eq]
  cases w <;> simp only [Width.bits, Int.bmod_def] at * <;> omega

/-! The difference, which is a sum with the complement: a - b - c = a + ~b + (1 - c). -/

theorem subResult_eq_addResult {n : Nat} (a b : BitVec n) (c : Bool) : subResult a b c = addResult a (~~~b) !c := by
  have hnot : a - b = a + ~~~b + 1#n := by
    rw [BitVec.sub_eq_add_neg, BitVec.neg_eq_not_add, BitVec.add_assoc]
  rw [addResult, BitVec.ofNat_add, BitVec.ofNat_add, BitVec.ofNat_toNat, BitVec.ofNat_toNat, BitVec.setWidth_eq,
    BitVec.setWidth_eq, subResult, hnot]
  cases c <;> simp

theorem toNat_not (c : Bool) : (!c).toNat = 1 - c.toNat := by cases c <;> rfl

theorem toInt_not_width {w : Width} (b : BitVec w.bits) : (~~~b).toInt = -b.toInt - 1 := by
  have hb := b.isLt
  rw [BitVec.toInt_eq_toNat_cond, BitVec.toInt_eq_toNat_cond, BitVec.toNat_not]
  cases w <;> simp only [Width.bits] at * <;> omega

theorem subResult_toNat {w : Width} (a b : BitVec w.bits) (c : Bool) :
    ((subResult a b c).toNat : Int) = ((a.toNat : Int) - b.toNat - c.toNat) % 2 ^ w.bits := by
  have hc := Bool.toNat_le c
  have ha := a.isLt
  have hb := b.isLt
  rw [subResult_eq_addResult, addResult_toNat, BitVec.toNat_not, toNat_not]
  cases w <;> simp only [Width.bits] at * <;> omega

theorem subFlags_ovf_iff {n : Nat} (f : Flags) (a b : BitVec n) (c : Bool) :
    (subFlags f a b c).ovf = true ↔ a.msb ≠ b.msb ∧ (subResult a b c).msb ≠ a.msb := by
  simp [subFlags]

theorem msb_subResult_iff {w : Width} (a b : BitVec w.bits) (c : Bool) :
    (a.msb ≠ b.msb ∧ (subResult a b c).msb ≠ a.msb) ↔ a.toInt - b.toInt - c.toNat ≠ (subResult a b c).toInt := by
  have hmsb : (~~~b).msb = !b.msb := by cases w <;> simp
  have hc := Bool.toNat_le c
  have hsum := msb_addResult_iff a (~~~b) !c
  rw [← subResult_eq_addResult, hmsb, toInt_not_width, toNat_not] at hsum
  rw [← Bool.eq_not, hsum]
  omega

/-- Settles O23: the flags of the result one by one; OF by the signs, and by the signed sum. -/
theorem addFlagsRule : Obligations.AddFlagsRule := by
  intro w f a b c
  exact ⟨addResult_toNat a b c, decide_eq_true_iff, decide_eq_true_iff, f.ofResult_zf_iff _, f.ofResult_sf_iff _,
    f.ofResult_pf_iff _, addFlags_ovf_iff f a b c, (addFlags_ovf_iff f a b c).trans (msb_addResult_iff a b c),
    rfl, rfl, rfl, rfl, rfl⟩

/-- Settles O24: the difference is a sum with the complement. -/
theorem subFlagsRule : Obligations.SubFlagsRule := by
  intro w f a b c
  exact ⟨subResult_toNat a b c, decide_eq_true_iff, decide_eq_true_iff, f.ofResult_zf_iff _, f.ofResult_sf_iff _,
    f.ofResult_pf_iff _, subFlags_ovf_iff f a b c, (subFlags_ovf_iff f a b c).trans (msb_subResult_iff a b c),
    rfl, rfl, rfl, rfl, rfl⟩

end Sys2Proof.Machine

/-! The instructions of two operands and of one (41_arithmetic.md R243 to R262, 42_logic.md R282 to R294): each is one
write of the destination and one of the flags. -/

namespace Sys2Proof.Machine

/-! The shared shapes where their test passes. -/

section
variable {s : State} {rm : Rm} {w : Width} {k : Nat} {op : AluOp w.bits}

theorem aluToRm_ok {src : State → BitVec w.bits} (h : s.rmStop rm w true = none)
    (hsrc : ∀ n, src { s with free := n } = src s) :
    aluToRm w rm src k op s = .ok () { s.setRm rm w (op s.free s.flags (s.rmValue rm w) (src s)).1 with
      flags := (op s.free s.flags (s.rmValue rm w) (src s)).2, free := s.free + k } := by
  rw [aluToRm_eq w rm src k op s hsrc, h]

theorem aluToReg_ok {r : Reg} (h : s.rmStop rm w false = none) :
    aluToReg w r rm k op s = .ok () { s.putReg w r (op s.free s.flags (s.getReg w r) (s.rmValue rm w)).1 with
      flags := (op s.free s.flags (s.getReg w r) (s.rmValue rm w)).2, free := s.free + k } := by
  rw [aluToReg_eq, h]

theorem aluTest_ok {a b : State → BitVec w.bits} (h : s.rmStop rm w false = none)
    (ha : ∀ n, a { s with free := n } = a s) (hb : ∀ n, b { s with free := n } = b s) :
    aluTest w rm k op a b s = .ok () { s with flags := (op s.free s.flags (a s) (b s)).2, free := s.free + k } := by
  rw [aluTest_eq w rm k op a b s ha hb, h]

/-- One operand draws no free value. -/
theorem unaryRm_ok {op : Flags → BitVec w.bits → BitVec w.bits × Flags} (h : s.rmStop rm w true = none) :
    unaryRm w rm op s = .ok () { s.setRm rm w (op s.flags (s.rmValue rm w)).1 with
      flags := (op s.flags (s.rmValue rm w)).2, free := s.free + 0 } := by
  rw [unaryRm_eq, h]
  simp

end

/-! From the effect to the instruction. -/

section
variable {i : Instr} {s : State} (hs : s.Ready)
include hs

/-- An instruction whose effect is one write of r/m, the flags it writes and the free values it draws. -/
theorem State.Ready.writesRmFlags {m : M Unit} {rm : Rm} {w : Width} {v : BitVec w.bits} {f : Flags} {k : Nat}
    (hi : exec i s = perform m s) (hm : m s = .ok () { s.setRm rm w v with flags := f, free := s.free + k }) :
    WritesRm i s rm w v f k :=
  ⟨hs.completes hi hm, s.sameRegs_setRm rm w v, s.sameMemory_setRm rm w v⟩

/-- An instruction whose effect is one write of a general register, the flags and the free values. -/
theorem State.Ready.writesRegFlags {m : M Unit} {w : Width} {r : Reg} {v : BitVec w.bits} {f : Flags} {k : Nat}
    (hi : exec i s = perform m s) (hm : m s = .ok () { s.putReg w r v with flags := f, free := s.free + k }) :
    WritesReg i s w r v f k := hs.writesRmFlags (rm := .reg r) hi hm

variable {rm : Rm} {w : Width} {k : Nat}

theorem State.Ready.writesRm_of_aluToRm (op : AluOp w.bits) (src : State → BitVec w.bits)
    (h : s.rmStop rm w true = none) (hsrc : ∀ n, src { s with free := n } = src s)
    (hi : exec i s = perform (aluToRm w rm src k op) s) :
    WritesRm i s rm w (op s.free s.flags (s.rmValue rm w) (src s)).1
      (op s.free s.flags (s.rmValue rm w) (src s)).2 k :=
  hs.writesRmFlags hi (aluToRm_ok h hsrc)

theorem State.Ready.writesReg_of_aluToReg {r : Reg} (op : AluOp w.bits) (h : s.rmStop rm w false = none)
    (hi : exec i s = perform (aluToReg w r rm k op) s) :
    WritesReg i s w r (op s.free s.flags (s.getReg w r) (s.rmValue rm w)).1
      (op s.free s.flags (s.getReg w r) (s.rmValue rm w)).2 k :=
  hs.writesRegFlags hi (aluToReg_ok h)

theorem State.Ready.writesReg_of_aluToAcc {v : BitVec w.bits} (op : AluOp w.bits)
    (hi : exec i s = perform (aluToAcc w v k op) s) :
    WritesReg i s w 0 (op s.free s.flags (s.getReg w 0) v).1 (op s.free s.flags (s.getReg w 0) v).2 k :=
  hs.writesRegFlags hi (aluToAcc_eq w v k op s)

theorem State.Ready.writesFlags_of_aluTest (op : AluOp w.bits) (a b : State → BitVec w.bits)
    (h : s.rmStop rm w false = none) (ha : ∀ n, a { s with free := n } = a s)
    (hb : ∀ n, b { s with free := n } = b s) (hi : exec i s = perform (aluTest w rm k op a b) s) :
    WritesFlags i s (op s.free s.flags (a s) (b s)).2 k :=
  hs.completes hi (aluTest_ok h ha hb)

theorem State.Ready.writesRm_of_unaryRm (op : Flags → BitVec w.bits → BitVec w.bits × Flags)
    (h : s.rmStop rm w true = none) (hi : exec i s = perform (unaryRm w rm op) s) :
    WritesRm i s rm w (op s.flags (s.rmValue rm w)).1 (op s.flags (s.rmValue rm w)).2 0 :=
  hs.writesRmFlags hi (unaryRm_ok h)

end

/-! `aluToRm` and `aluToReg` name operations of the model too, so these two theorems have a namespace of their own. -/

namespace Arithmetic

/-- Settles O26: each is `aluToRm` of its operation; the source is a register or an immediate. -/
theorem aluToRm : Obligations.AluToRm := by
  intro s rm hs
  refine ⟨fun w r h => ?_, fun i h => ?_⟩
  · have writes {i : Instr} {k : Nat} (op : AluOp w.bits) :=
      hs.writesRm_of_aluToRm (i := i) (k := k) op (·.getReg w r) h fun n => s.getReg_free n w r
    exact ⟨writes addOp rfl, writes adcOp rfl, writes subOp rfl, writes sbbOp rfl, writes andOp rfl, writes orOp rfl,
      writes xorOp rfl⟩
  · have writes {i' : Instr} {k : Nat} (op : AluOp (aluWidth i).bits) :=
      hs.writesRm_of_aluToRm (i := i') (k := k) op (fun _ => aluValue i) h fun _ => rfl
    exact ⟨writes addOp rfl, writes adcOp rfl, writes subOp rfl, writes sbbOp rfl, writes andOp rfl, writes orOp rfl,
      writes xorOp rfl⟩

/-- Settles O27: each is `aluToReg` or `aluToAcc` of its operation. -/
theorem aluToReg : Obligations.AluToReg := by
  intro s hs
  refine ⟨fun w r rm h => ?_, fun i => ?_⟩
  · have writes {i : Instr} {k : Nat} (op : AluOp w.bits) :=
      hs.writesReg_of_aluToReg (i := i) (k := k) (r := r) op h
    exact ⟨writes addOp rfl, writes adcOp rfl, writes subOp rfl, writes sbbOp rfl, writes andOp rfl, writes orOp rfl,
      writes xorOp rfl⟩
  · have writes {i' : Instr} {k : Nat} (op : AluOp (immWidth i).bits) :=
      hs.writesReg_of_aluToAcc (i := i') (k := k) (v := immValue i) op
    exact ⟨writes addOp rfl, writes adcOp rfl, writes subOp rfl, writes sbbOp rfl, writes andOp rfl, writes orOp rfl,
      writes xorOp rfl⟩

end Arithmetic

/-- Settles O28: each is `aluTest` of the difference or of the conjunction. -/
theorem compareAndTest : Obligations.CompareAndTest := by
  intro s hs
  have hreg (w : Width) (r : Reg) (n : Nat) : ({ s with free := n } : State).getReg w r = s.getReg w r :=
    s.getReg_free n w r
  have hrm (w : Width) (rm : Rm) (n : Nat) : ({ s with free := n } : State).rmValue rm w = s.rmValue rm w :=
    s.rmValue_free n rm w
  have himm {w : Width} (v : BitVec w.bits) : Nat → v = v := fun _ => rfl
  refine ⟨fun w r rm h => ⟨?_, ?_, ?_⟩, fun i rm h => ?_, fun i rm h => ?_, fun i => ⟨?_, ?_⟩⟩
  · exact hs.writesFlags_of_aluTest subOp (·.rmValue rm w) (·.getReg w r) h (hrm w rm) (hreg w r) rfl
  · exact hs.writesFlags_of_aluTest subOp (·.getReg w r) (·.rmValue rm w) h (hreg w r) (hrm w rm) rfl
  · exact hs.writesFlags_of_aluTest andOp (·.rmValue rm w) (·.getReg w r) h (hrm w rm) (hreg w r) rfl
  · exact hs.writesFlags_of_aluTest subOp (·.rmValue rm _) (fun _ => aluValue i) h (hrm _ rm) (himm _) rfl
  · exact hs.writesFlags_of_aluTest andOp (·.rmValue rm _) (fun _ => immValue i) h (hrm _ rm) (himm _) rfl
  · exact hs.writesFlags_of_aluTest (rm := .reg 0) subOp (·.getReg _ 0) (fun _ => immValue i) rfl (hreg _ 0)
      (himm _) rfl
  · exact hs.writesFlags_of_aluTest (rm := .reg 0) andOp (·.getReg _ 0) (fun _ => immValue i) rfl (hreg _ 0)
      (himm _) rfl

/-! The results of one operand. -/

theorem addResult_one {n : Nat} (a : BitVec n) : addResult a 1 false = a + 1 := by
  apply BitVec.eq_of_toNat_eq
  simp [addResult]

theorem subResult_false {n : Nat} (a b : BitVec n) : subResult a b false = a - b := by simp [subResult]

/-- Settles O29: each is `unaryRm` of its operation. -/
theorem oneOperand : Obligations.OneOperand := by
  intro s hs
  refine ⟨fun w rm h => ⟨?_, ?_, ?_, ?_⟩, fun r => ⟨?_, ?_⟩⟩
  · rw [← addResult_one]
    exact hs.writesRm_of_unaryRm incOp h rfl
  · rw [← subResult_false]
    exact hs.writesRm_of_unaryRm decOp h rfl
  · rw [← BitVec.zero_sub, ← subResult_false]
    exact hs.writesRm_of_unaryRm negOp h rfl
  · exact hs.writesRm_of_unaryRm (fun f a => (~~~a, f)) h rfl
  · rw [← addResult_one]
    exact hs.writesRm_of_unaryRm (rm := .reg r) incOp rfl rfl
  · rw [← subResult_false]
    exact hs.writesRm_of_unaryRm (rm := .reg r) decOp rfl rfl

end Sys2Proof.Machine

/-! AAA, AAS, DAA, DAS, AAM and AAD (41_arithmetic.md R263 to R266, R272, R273). -/

namespace Sys2Proof.Machine

theorem concatBytes_ofNat {a b : Nat} (hb : b < 256) :
    concatBytes (BitVec.ofNat 8 a) (BitVec.ofNat 8 b) = BitVec.ofNat 16 (256 * a + b) := by
  apply BitVec.eq_of_toNat_eq
  rw [BitVec.toNat_append, ← Nat.shiftLeft_add_eq_or_of_lt (BitVec.isLt _), Nat.shiftLeft_eq]
  simp only [BitVec.toNat_ofNat]
  omega

/-! What the six instructions have in common: free values are drawn, then a register and the flags written. -/

section
variable {i : Instr} {s : State} {w : Width} {r : Reg} {v : BitVec w.bits} {f : Flags} (hs : s.Ready)
include hs

theorem State.Ready.writesReg_of_draw {k : Nat} {g : Nat → State → State}
    (hi : exec i s = perform (draw k >>= fun n => update (g n)) s)
    (hg : g s.free { s with free := s.free + k } = { s.putReg w r v with flags := f, free := s.free + k }) :
    WritesReg i s w r v f k :=
  hs.writesRegFlags hi (congrArg (EStateM.Result.ok ()) hg)

variable {undefined : State → Bool} {high : Bool} {g : Nat → State → State}
  (hi : exec i s =
    perform (draw 8 >>= fun n => update fun s => if s.adjusts && undefined s then s.freeAdjust high n else g n s) s)
include hi

/-- An adjustment of an input the spec defines. -/
theorem State.Ready.writesReg_of_adjust (h : s.adjusts = true → undefined { s with free := s.free + 8 } = false)
    (hg : g s.free { s with free := s.free + 8 } = { s.putReg w r v with flags := f, free := s.free + 8 }) :
    WritesReg i s w r v f 8 :=
  hs.writesReg_of_draw hi ((if_neg (ne_true_of_eq_false (Bool.and_eq_false_imp.mpr h))).trans hg)

/-- An adjustment writes AX whether or not the spec defines it (93_implementation_defined.md U11, log entry 19). -/
theorem State.Ready.exists_writesReg_of_adjust
    (hg : ∃ v f, g s.free { s with free := s.free + 8 } =
      { s.putReg .word AX v with flags := f, free := s.free + 8 }) : ∃ v f, WritesReg i s .word AX v f 8 := by
  by_cases h : (s.adjusts && undefined { s with free := s.free + 8 }) = true
  · exact ⟨_, _, hs.writesReg_of_draw hi (if_pos h)⟩
  · obtain ⟨v, f, hg⟩ := hg
    exact ⟨v, f, hs.writesReg_of_draw hi ((if_neg h).trans hg)⟩

end

/-! AAA and AAS. -/

/-- The flags of AAA and AAS on a defined input. -/
def State.asciiFlags (s : State) : Flags := { s.flags.allFree s.free with af := s.adjusts, cf := s.adjusts }

section
variable {s : State}

theorem State.ascii_adjusted (h : s.adjusts = true) (al ah : Byte) (k : Nat) :
    ({ s with free := k } : State).ascii al ah s.free =
      { s.setReg AX (concatBytes ah (al &&& 0x0F)) with flags := s.asciiFlags, free := k } := if_pos h

theorem State.ascii_unadjusted (h : s.adjusts = false) (al ah : Byte) (k : Nat) :
    ({ s with free := k } : State).ascii al ah s.free =
      { s.setReg AX (concatBytes (s.reg8 AH) (s.reg8 AL &&& 0x0F)) with flags := s.asciiFlags, free := k } :=
  if_neg (ne_true_of_eq_false h)

theorem State.exists_ascii_eq (al ah : Byte) (k : Nat) :
    ∃ v f, ({ s with free := k } : State).ascii al ah s.free = { s.setReg AX v with flags := f, free := k } := by
  cases h : s.adjusts
  · exact ⟨_, _, ascii_unadjusted h al ah k⟩
  · exact ⟨_, _, ascii_adjusted h al ah k⟩

variable (hs : s.Ready)
include hs

theorem aaa_unadjusted (h : s.adjusts = false) :
    WritesReg .aaa s .word AX (concatBytes (s.reg8 AH) (s.reg8 AL &&& 0x0F)) s.asciiFlags 8 :=
  hs.writesReg_of_adjust rfl (fun ht => absurd ht (ne_true_of_eq_false h)) (State.ascii_unadjusted h _ _ _)

theorem aaa_adjusted (h : s.adjusts = true) (hal : (s.reg8 AL).toNat ≤ 0xF9) :
    WritesReg .aaa s .word AX (concatBytes (s.reg8 AH + 1) ((s.reg8 AL + 6) &&& 0x0F)) s.asciiFlags 8 :=
  hs.writesReg_of_adjust rfl (fun _ => decide_eq_false (Nat.not_lt.mpr hal)) (State.ascii_adjusted h _ _ _)

theorem aas_unadjusted (h : s.adjusts = false) :
    WritesReg .aas s .word AX (concatBytes (s.reg8 AH) (s.reg8 AL &&& 0x0F)) s.asciiFlags 8 :=
  hs.writesReg_of_adjust rfl (fun ht => absurd ht (ne_true_of_eq_false h)) (State.ascii_unadjusted h _ _ _)

theorem aas_adjusted (h : s.adjusts = true) (hal : 6 ≤ (s.reg8 AL).toNat) :
    WritesReg .aas s .word AX (concatBytes (s.reg8 AH - 1) ((s.reg8 AL - 6) &&& 0x0F)) s.asciiFlags 8 :=
  hs.writesReg_of_adjust rfl (fun _ => decide_eq_false (Nat.not_lt.mpr hal)) (State.ascii_adjusted h _ _ _)

end

/-! DAA and DAS: a write of AL, and so one of AX. -/

section
variable {s : State}

theorem State.exists_decimal_eq (al : Byte) (k : Nat) :
    ∃ v f, ({ s with free := k } : State).decimal al s.free = { s.setReg AX v with flags := f, free := k } :=
  ⟨concatBytes (s.reg8 AH) al, (s.decimal al s.free).flags, rfl⟩

variable (hs : s.Ready)
include hs

theorem daa_defined (h : s.adjusts = true → (s.reg8 AL).toNat < 0xFA) :
    let low : Byte := if s.adjusts then s.reg8 AL + 6 else s.reg8 AL
    let sum : Byte := if s.adjustsHigh then low + 0x60 else low
    WritesReg .daa s .byte AL sum (s.decimal sum s.free).flags 8 :=
  hs.writesReg_of_adjust rfl (fun ht => decide_eq_false (Nat.not_le.mpr (h ht))) rfl

theorem das_defined (h : s.adjusts = true → 6 ≤ (s.reg8 AL).toNat) :
    let low : Byte := if s.adjusts then s.reg8 AL - 6 else s.reg8 AL
    let difference : Byte := if s.adjustsHigh then low - 0x60 else low
    WritesReg .das s .byte AL difference (s.decimal difference s.free).flags 8 :=
  hs.writesReg_of_adjust rfl (fun ht => decide_eq_false (Nat.not_lt.mpr (h ht))) rfl

/-- Each of the four completes with some value in AX. -/
theorem adjust_completes : ∀ i ∈ [Instr.aaa, .aas, .daa, .das], ∃ v f, WritesReg i s .word AX v f 8 := by
  intro i hi
  simp only [List.mem_cons, List.not_mem_nil, or_false] at hi
  rcases hi with rfl | rfl | rfl | rfl
  · exact hs.exists_writesReg_of_adjust rfl (State.exists_ascii_eq _ _ _)
  · exact hs.exists_writesReg_of_adjust rfl (State.exists_ascii_eq _ _ _)
  · exact hs.exists_writesReg_of_adjust rfl (State.exists_decimal_eq _ _)
  · exact hs.exists_writesReg_of_adjust rfl (State.exists_decimal_eq _ _)

/-! AAM and AAD. -/

theorem aam_writes :
    WritesReg .aam s .word AX (BitVec.ofNat 16 (256 * ((s.reg8 AL).toNat / 10) + (s.reg8 AL).toNat % 10))
      ((s.flags.allFree s.free).ofResult (BitVec.ofNat 8 ((s.reg8 AL).toNat % 10))) 6 := by
  have hal := (s.reg8 AL).isLt
  have hdiv : s.reg8 AL / 10 = BitVec.ofNat 8 ((s.reg8 AL).toNat / 10) := by
    apply BitVec.eq_of_toNat_eq
    simp only [BitVec.ofNat_eq_ofNat, BitVec.toNat_udiv, BitVec.toNat_ofNat, Nat.reducePow, Nat.reduceMod]
    omega
  have hmod : s.reg8 AL % 10 = BitVec.ofNat 8 ((s.reg8 AL).toNat % 10) := by
    apply BitVec.eq_of_toNat_eq
    simp only [BitVec.ofNat_eq_ofNat, BitVec.toNat_umod, BitVec.toNat_ofNat, Nat.reducePow, Nat.reduceMod]
    omega
  rw [← concatBytes_ofNat (by omega), ← hdiv, ← hmod]
  exact hs.writesReg_of_draw rfl rfl

theorem aad_writes :
    let sum : Byte := BitVec.ofNat 8 ((s.reg8 AH).toNat * 10 + (s.reg8 AL).toNat)
    WritesReg .aad s .word AX (zeroExtend16 sum) ((s.flags.allFree s.free).ofResult sum) 6 := by
  have hsum : BitVec.ofNat 8 ((s.reg8 AH).toNat * 10 + (s.reg8 AL).toNat) = s.reg8 AH * 10 + s.reg8 AL := by
    rw [BitVec.ofNat_add, BitVec.ofNat_mul]
    simp
  rw [hsum]
  exact hs.writesReg_of_draw rfl rfl

end

/-- Settles O30: on each input an adjustment is one write of AL or AX, by value where the spec defines it. -/
theorem decimalAdjust : Obligations.DecimalAdjust := by
  refine ⟨fun s hs => ⟨fun h => ⟨?_, ?_⟩, ?_, ?_, ?_, ?_, ?_⟩, fun s hs => ⟨?_, ?_⟩⟩
  · exact aaa_unadjusted hs h
  · exact aas_unadjusted hs h
  · exact aaa_adjusted hs
  · exact aas_adjusted hs
  · exact daa_defined hs
  · exact das_defined hs
  · exact adjust_completes hs
  · exact aam_writes hs
  · exact aad_writes hs

end Sys2Proof.Machine

/-! MUL and IMUL (41_arithmetic.md R267 to R269). -/

namespace Sys2Proof.Machine

/-! Products of extended operands. -/

theorem setWidth_mul_setWidth {n : Nat} (m : Nat) (x y : BitVec n) :
    x.setWidth m * y.setWidth m = BitVec.ofNat m (x.toNat * y.toNat) := by
  rw [BitVec.ofNat_mul, BitVec.ofNat_toNat, BitVec.ofNat_toNat]

theorem signExtend_mul_signExtend {n : Nat} (m : Nat) (x y : BitVec n) :
    x.signExtend m * y.signExtend m = BitVec.ofInt m (x.toInt * y.toInt) := (BitVec.ofInt_mul ..).symm

/-- A product of two signed numbers fits twice their width. -/
theorem toInt_mul_toInt_mem {n : Nat} (hn : 0 < n) (x y : BitVec n) :
    -2 ^ (n * 2 - 1) ≤ x.toInt * y.toInt ∧ x.toInt * y.toInt < 2 ^ (n * 2 - 1) := by
  have hlow := BitVec.le_toInt_mul_toInt (x := x) (y := y)
  have hhigh := BitVec.toInt_mul_toInt_le (x := x) (y := y)
  have hlt : (2 : Int) ^ (n * 2 - 2) < 2 ^ (n * 2 - 1) := Int.pow_lt_pow_of_lt (by decide) (by omega)
  omega

/-! The halves of a product. -/

theorem lowWord_ofInt (p : Int) : lowWord (BitVec.ofInt 32 p) = BitVec.ofInt 16 p := by
  apply BitVec.eq_of_toNat_eq
  simp only [BitVec.extractLsb'_toNat, BitVec.toNat_ofInt, Nat.shiftRight_zero]
  omega

theorem highWord_ofInt (p : Int) : highWord (BitVec.ofInt 32 p) = BitVec.ofInt 16 (p / 2 ^ 16) := by
  apply BitVec.eq_of_toNat_eq
  simp only [BitVec.extractLsb'_toNat, BitVec.toNat_ofInt, Nat.shiftRight_eq_div_pow]
  omega

theorem State.setDxAx_ofInt (s : State) (p : Int) :
    s.setDxAx (BitVec.ofInt 32 p) = (s.setReg AX (BitVec.ofInt 16 p)).setReg DX (BitVec.ofInt 16 (p / 2 ^ 16)) := by
  rw [setDxAx, lowWord_ofInt, highWord_ofInt]

/-! Whether a product fits its lower half. -/

/-- The upper half of an unsigned number is not 0 exactly where the number does not fit the lower half. -/
theorem upper_ne_zero {n p : Nat} (h : p < 2 ^ (n * 2)) :
    ((BitVec.ofNat (n * 2) p).extractLsb' n n != 0) = decide (2 ^ n ≤ p) := by
  have hdiv : p / 2 ^ n < 2 ^ n := Nat.div_lt_of_lt_mul (by rwa [← Nat.pow_add, ← Nat.mul_two])
  rw [Bool.eq_iff_iff, bne_iff_ne, decide_eq_true_iff, ne_eq, ← BitVec.toNat_inj, BitVec.extractLsb'_toNat,
    BitVec.toNat_ofNat, Nat.mod_eq_of_lt h, Nat.shiftRight_eq_div_pow, Nat.mod_eq_of_lt hdiv, BitVec.ofNat_eq_ofNat,
    BitVec.toNat_ofNat, Nat.zero_mod, Nat.div_eq_zero_iff_lt (Nat.two_pow_pos n), Nat.not_lt]

theorem bmod_two_pow_eq_self_iff {n : Nat} (hn : 0 < n) (q : Int) :
    q.bmod (2 ^ n) = q ↔ -2 ^ (n - 1) ≤ q ∧ q < 2 ^ (n - 1) := by
  have htwo : ((2 ^ n : Nat) : Int) = 2 * 2 ^ (n - 1) := by
    rw [Nat.cast_pow, Nat.cast_ofNat, ← Int.pow_succ', Nat.sub_one_add_one (by omega)]
  have hpos : 0 < 2 ^ n := Nat.two_pow_pos n
  constructor
  · intro h
    have hle := Int.le_bmod (x := q) hpos
    have hlt := Int.bmod_lt (x := q) hpos
    omega
  · rintro ⟨hlow, hhigh⟩
    exact Int.bmod_eq_of_le_mul_two (by omega) (by omega)

/-- A signed number differs from its sign-extended lower part exactly where it does not fit that part. -/
theorem ne_signExtend_lower {n m : Nat} (hn : 0 < n) (hnm : n ≤ m) {q : Int}
    (hq : -2 ^ (m - 1) ≤ q ∧ q < 2 ^ (m - 1)) :
    (BitVec.ofInt m q != ((BitVec.ofInt m q).extractLsb' 0 n).signExtend m) =
      decide (q < -2 ^ (n - 1) ∨ 2 ^ (n - 1) ≤ q) := by
  have hwhole : (BitVec.ofInt m q).toInt = q := by
    rw [BitVec.toInt_ofInt, (bmod_two_pow_eq_self_iff (by omega) q).mpr hq]
  have hlower : (((BitVec.ofInt m q).extractLsb' 0 n).signExtend m).toInt = q.bmod (2 ^ n) := by
    rw [BitVec.toInt_signExtend_of_le hnm, ← BitVec.setWidth_eq_extractLsb' hnm,
      ← BitVec.signExtend_eq_setWidth_of_le _ hnm, BitVec.toInt_signExtend_eq_toInt_bmod_of_le _ hnm, hwhole]
  rw [Bool.eq_iff_iff, bne_iff_ne, decide_eq_true_iff, ne_eq, ← BitVec.toInt_inj, hwhole, hlower, eq_comm,
    bmod_two_pow_eq_self_iff hn]
  omega

/-! The effects. -/

/-- An effect that reads r/m, draws free values and then changes the state. -/
theorem readRm_draw_ok {s : State} {rm : Rm} {w : Width} (h : s.rmStop rm w false = none) (k : Nat)
    (g : BitVec w.bits → Nat → State → State) :
    (readRm rm w >>= fun v => draw k >>= fun n => update (g v n)) s =
      .ok () (g (s.rmValue rm w) s.free { s with free := s.free + k }) := bind_ok (readRm_ok h)

section
variable (s : State) (k n : Nat)

theorem State.mul_byte (v : Byte) :
    let p := (s.reg8 AL).toNat * v.toNat
    ({ s with free := k } : State).mul .byte v n =
      { s.setReg AX (BitVec.ofNat 16 p) with flags := mulFlags s.flags (decide (2 ^ 8 ≤ p)) n, free := k } := by
  intro p
  have hfit := upper_ne_zero (n := 8) (BitVec.toNat_mul_toNat_lt (x := s.reg8 AL) (y := v))
  rw [← hfit, ← setWidth_mul_setWidth]
  rfl

theorem State.mul_word (v : Word) :
    let p := (s.reg AX).toNat * v.toNat
    ({ s with free := k } : State).mul .word v n =
      { (s.setReg AX (BitVec.ofInt 16 p)).setReg DX (BitVec.ofInt 16 (p / 2 ^ 16)) with
        flags := mulFlags s.flags (decide (2 ^ 16 ≤ p)) n, free := k } := by
  intro p
  have hfit := upper_ne_zero (n := 16) (BitVec.toNat_mul_toNat_lt (x := s.reg AX) (y := v))
  rw [← setDxAx_ofInt, BitVec.ofInt_natCast, ← hfit, ← setWidth_mul_setWidth]
  rfl

theorem byte_product_fits (x y : Byte) :
    let p := signExtend16 x * signExtend16 y
    (p != signExtend16 (lowByte p)) = decide (x.toInt * y.toInt < -2 ^ 7 ∨ 2 ^ 7 ≤ x.toInt * y.toInt) := by
  intro p
  have hp : p = BitVec.ofInt 16 (x.toInt * y.toInt) := signExtend_mul_signExtend 16 x y
  rw [hp]
  exact ne_signExtend_lower (n := 8) (by decide) (by decide) (toInt_mul_toInt_mem (by decide) x y)

theorem word_product_fits (x y : Word) :
    let p := x.signExtend 32 * y.signExtend 32
    (p != (lowWord p).signExtend 32) = decide (x.toInt * y.toInt < -2 ^ 15 ∨ 2 ^ 15 ≤ x.toInt * y.toInt) := by
  intro p
  have hp : p = BitVec.ofInt 32 (x.toInt * y.toInt) := signExtend_mul_signExtend 32 x y
  rw [hp]
  exact ne_signExtend_lower (n := 16) (by decide) (by decide) (toInt_mul_toInt_mem (by decide) x y)

theorem State.imul_byte (v : Byte) :
    let q := (s.reg8 AL).toInt * v.toInt
    ({ s with free := k } : State).imul .byte v n =
      { s.setReg AX (BitVec.ofInt 16 q) with
        flags := mulFlags s.flags (decide (q < -2 ^ 7 ∨ 2 ^ 7 ≤ q)) n, free := k } := by
  intro q
  rw [← byte_product_fits, ← signExtend_mul_signExtend]
  rfl

theorem State.imul_word (v : Word) :
    let q := (s.reg AX).toInt * v.toInt
    ({ s with free := k } : State).imul .word v n =
      { (s.setReg AX (BitVec.ofInt 16 q)).setReg DX (BitVec.ofInt 16 (q / 2 ^ 16)) with
        flags := mulFlags s.flags (decide (q < -2 ^ 15 ∨ 2 ^ 15 ≤ q)) n, free := k } := by
  intro q
  rw [← setDxAx_ofInt, ← word_product_fits, ← signExtend_mul_signExtend]
  rfl

end

/-- IMUL of a register by an immediate keeps the low half of the product. -/
theorem execImulRegRmImm_writes {s : State} {rm : Rm} (hs : s.Ready) (h : s.rmStop rm .word false = none) (r : Reg)
    (i : SxImm) :
    let q := (s.rmValue rm .word).toInt * (sxValue i).toInt
    WritesReg (.imulRegRmImm r rm i) s .word r (BitVec.ofInt 16 q)
      (mulFlags s.flags (decide (q < -2 ^ 15 ∨ 2 ^ 15 ≤ q)) s.free) 6 := by
  intro q
  rw [← word_product_fits, ← lowWord_ofInt, ← signExtend_mul_signExtend]
  exact hs.writesRegFlags rfl (bind_ok (readRm_ok h))

/-- Settles O31: the product of the extended operands is exact, and its lower half tells whether it fits there. -/
theorem multiply : Obligations.Multiply := by
  intro s rm hs
  refine ⟨fun h => ⟨?_, ?_⟩, fun h => ⟨?_, ?_, fun r i => ?_⟩⟩
  · exact hs.writesRegFlags rfl ((readRm_draw_ok h 6 fun v n t => t.mul .byte v n).trans
      (congrArg _ (s.mul_byte _ _ _)))
  · exact hs.writesRegFlags rfl ((readRm_draw_ok h 6 fun v n t => t.imul .byte v n).trans
      (congrArg _ (s.imul_byte _ _ _)))
  · exact hs.completes rfl ((readRm_draw_ok h 6 fun v n t => t.mul .word v n).trans
      (congrArg _ (s.mul_word _ _ _)))
  · exact hs.completes rfl ((readRm_draw_ok h 6 fun v n t => t.imul .word v n).trans
      (congrArg _ (s.imul_word _ _ _)))
  · exact execImulRegRmImm_writes hs h r i

end Sys2Proof.Machine

/-! DIV and IDIV (41_arithmetic.md R270, R271, 93_implementation_defined.md U10). -/

namespace Sys2Proof.Machine

/-! The dividend of the word forms. -/

theorem State.dxAx_toNat (s : State) : s.dxAx.toNat = 2 ^ 16 * (s.reg DX).toNat + (s.reg AX).toNat := by
  rw [dxAx, BitVec.toNat_append, ← Nat.shiftLeft_add_eq_or_of_lt (BitVec.isLt _), Nat.shiftLeft_eq, Nat.mul_comm]

theorem State.dxAx_toInt (s : State) : s.dxAx.toInt = (s.reg DX).toInt * 2 ^ 16 + (s.reg AX).toNat := by
  rw [dxAx, BitVec.toInt_append, Int.mul_comm]
  rfl

/-! Which divisions trap. -/

section
variable (s : State)

theorem State.divTraps_byte_iff (v : Byte) :
    s.divTraps .byte v = true ↔ v.toNat = 0 ∨ 0xFF < (s.reg AX).toNat / v.toNat := by
  simp only [divTraps, Bool.or_eq_true, beq_iff_eq, decide_eq_true_eq]

theorem State.divTraps_word_iff (v : Word) :
    s.divTraps .word v = true ↔
      v.toNat = 0 ∨ 0xFFFF < (2 ^ 16 * (s.reg DX).toNat + (s.reg AX).toNat) / v.toNat := by
  simp only [divTraps, Bool.or_eq_true, beq_iff_eq, decide_eq_true_eq, dxAx_toNat]

theorem State.quotient_byte (v : Byte) : s.quotient .byte v = (s.reg AX).toInt.tdiv v.toInt := rfl

theorem State.quotient_word (v : Word) :
    s.quotient .word v = ((s.reg DX).toInt * 2 ^ 16 + (s.reg AX).toNat).tdiv v.toInt := by
  rw [← dxAx_toInt]
  rfl

variable {w : Width} (v : BitVec w.bits)

theorem State.idivTraps_iff :
    s.idivTraps w v = true ↔
      v.toInt = 0 ∨ s.quotient w v < -2 ^ (w.bits - 1) ∨ 2 ^ (w.bits - 1) ≤ s.quotient w v := by
  simp only [idivTraps, Bool.or_eq_true, beq_iff_eq, decide_eq_true_eq]
  omega

theorem State.idivOpen_iff : s.idivOpen w v = true ↔ s.quotient w v = -2 ^ (w.bits - 1) := beq_iff_eq

end

/-! The effects: the divisor is read, the traps tested, and then the registers and flags written. -/

/-- The count of free values is no part of a quotient. -/
theorem State.div_free_comm (s : State) (w : Width) (v : BitVec w.bits) (k : Nat) :
    ({ s with free := k } : State).div w v = { s.div w v with free := k } := by cases w <;> rfl

theorem State.idiv_free_comm (s : State) (w : Width) (v : BitVec w.bits) (k : Nat) :
    ({ s with free := k } : State).idiv w v = { s.idiv w v with free := k } := by cases w <;> rfl

theorem State.idivOpen_free (s : State) (w : Width) (v : BitVec w.bits) (k : Nat) :
    ({ s with free := k } : State).idivOpen w v = s.idivOpen w v := by cases w <;> rfl

/-- The effect of IDIV up to its choice for the most negative quotient: the free values are drawn first. -/
theorem idivEffect_eq {s : State} {rm : Rm} {w : Width} (h : s.rmStop rm w false = none)
    (ht : s.idivTraps w (s.rmValue rm w) = false) {g : BitVec w.bits → Nat → M Unit} :
    (readRm rm w >>= fun v => require (fun s => !s.idivTraps w v) divideError >>= fun _ => draw 7 >>= g v) s =
      g (s.rmValue rm w) s.free { s with free := s.free + 7 } :=
  (bind_ok (readRm_ok h)).trans (bind_ok (require_true (by rw [ht]; rfl)))

/-- An instruction takes the exception its effect stops with, in the state it stops in. -/
theorem State.Ready.takesException {i : Instr} {m : M Unit} {s t : State} {v : Byte} {e : Option Word} (hs : s.Ready)
    (hi : exec i s = perform m s) (hv : v ≠ 16) (hm : m s = .error (.exc v e) t) :
    exec i s = takeException v e t := by
  obtain ⟨hrep, hlock⟩ := hs
  rw [hi, perform_eq hrep hlock, hm, settle_exc e t hv]

section
variable {s : State} {rm : Rm} {w : Width} (hs : s.Ready) (h : s.rmStop rm w false = none)
include hs h

/-- An instruction that reads its divisor and tests it. -/
theorem State.Ready.raises_of_divisor {i : Instr} {c : BitVec w.bits → State → Bool} {g : BitVec w.bits → M Unit}
    (hi : exec i s = perform (readRm rm w >>= fun v => require (c v) divideError >>= fun _ => g v) s)
    (hc : c (s.rmValue rm w) s = false) : Raises i s 0 none :=
  hs.raises hi (by decide) ((bind_ok (readRm_ok h)).trans (bind_error (require_false hc)))

theorem execDivRm_raises (ht : s.divTraps w (s.rmValue rm w) = true) : Raises (.divRm w rm) s 0 none :=
  hs.raises_of_divisor h rfl (by rw [ht]; rfl)

theorem execDivRm_ok (ht : s.divTraps w (s.rmValue rm w) = false) :
    exec (.divRm w rm) s = .next (State.endInstruction { s.div w (s.rmValue rm w) with
      flags := s.flags.allFree s.free, free := s.free + 6 }) := by
  refine hs.completes rfl ((bind_ok (readRm_ok h)).trans ((bind_ok (require_true ?_)).trans ?_))
  · rw [ht]
    rfl
  · rw [draw_bind, update_apply, State.div_free_comm]

theorem execIdivRm_raises (ht : s.idivTraps w (s.rmValue rm w) = true) : Raises (.idivRm w rm) s 0 none :=
  hs.raises_of_divisor h rfl (by rw [ht]; rfl)

variable (ht : s.idivTraps w (s.rmValue rm w) = false)
include ht

theorem execIdivRm_ok (ho : (s.idivOpen w (s.rmValue rm w) && Config.freeBit (s.free + 6)) = false) :
    exec (.idivRm w rm) s = .next (State.endInstruction { s.idiv w (s.rmValue rm w) with
      flags := s.flags.allFree s.free, free := s.free + 7 }) := by
  refine hs.completes rfl ((idivEffect_eq h ht).trans ((bind_ok (require_true ?_)).trans ?_))
  · rw [State.idivOpen_free, ho]
    rfl
  · rw [update_apply, State.idiv_free_comm]

theorem execIdivRm_traps (ho : (s.idivOpen w (s.rmValue rm w) && Config.freeBit (s.free + 6)) = true) :
    exec (.idivRm w rm) s = takeException 0 none { s with free := s.free + 7 } := by
  refine hs.takesException rfl (by decide) ((idivEffect_eq h ht).trans (bind_error (require_false ?_)))
  rw [State.idivOpen_free, ho]
  rfl

end

/-! Quotient and remainder. -/

/-- An instruction that completes with one general register and the flags written. -/
theorem WritesReg.of_exec {i : Instr} {s : State} {w : Width} {r : Reg} {v : BitVec w.bits} {f : Flags} {k : Nat}
    (h : exec i s = .next (State.endInstruction { s.putReg w r v with flags := f, free := s.free + k })) :
    WritesReg i s w r v f k :=
  ⟨h, s.sameRegs_putReg w r v, s.sameMemory_setRm (.reg r) w v⟩

section
variable (s : State)

theorem State.div_byte {v : Byte} (h : (s.reg AX).toNat / v.toNat ≤ 0xFF) :
    s.div .byte v =
      s.setReg AX (BitVec.ofNat 16 (256 * ((s.reg AX).toNat % v.toNat) + (s.reg AX).toNat / v.toNat)) := by
  rw [div, concatBytes_ofNat (by omega)]

theorem State.div_word (v : Word) :
    let x := 2 ^ 16 * (s.reg DX).toNat + (s.reg AX).toNat
    s.div .word v = (s.setReg AX (BitVec.ofNat 16 (x / v.toNat))).setReg DX (BitVec.ofNat 16 (x % v.toNat)) := by
  intro x
  rw [div, dxAx_toNat]

theorem State.idiv_byte (v : Byte) :
    let x := (s.reg AX).toInt
    s.idiv .byte v =
      s.setReg AX (concatBytes (BitVec.ofInt 8 (x.tmod v.toInt)) (BitVec.ofInt 8 (x.tdiv v.toInt))) := rfl

theorem State.idiv_word (v : Word) :
    let x := (s.reg DX).toInt * 2 ^ 16 + (s.reg AX).toNat
    s.idiv .word v =
      (s.setReg AX (BitVec.ofInt 16 (x.tdiv v.toInt))).setReg DX (BitVec.ofInt 16 (x.tmod v.toInt)) := by
  intro x
  rw [idiv, dividend, quotient_word, dxAx_toInt]

end

section
variable {s : State} {rm : Rm} (hs : s.Ready)
include hs

theorem divByte_cases (h : s.rmStop rm .byte false = none) :
    let v : Byte := s.rmValue rm .byte
    let d := v.toNat
    let x := (s.reg AX).toNat
    (d ≠ 0 → x / d ≤ 0xFF → WritesReg (.divRm .byte rm) s .word AX
      (BitVec.ofNat 16 (256 * (x % d) + x / d)) (s.flags.allFree s.free) 6) ∧
    (d = 0 ∨ 0xFF < x / d → Raises (.divRm .byte rm) s 0 none) := by
  intro v d x
  have htraps := s.divTraps_byte_iff v
  refine ⟨fun hd hq => .of_exec ?_, fun ht => execDivRm_raises hs h (htraps.mpr ht)⟩
  have hexec := execDivRm_ok hs h (eq_false_of_ne_true (mt htraps.mp (not_or.mpr ⟨hd, Nat.not_lt.mpr hq⟩)))
  rwa [State.div_byte s hq] at hexec

theorem divWord_cases (h : s.rmStop rm .word false = none) :
    let v : Word := s.rmValue rm .word
    let d := v.toNat
    let x := 2 ^ 16 * (s.reg DX).toNat + (s.reg AX).toNat
    (d ≠ 0 → x / d ≤ 0xFFFF → exec (.divRm .word rm) s =
      .next { (s.setReg AX (BitVec.ofNat 16 (x / d))).setReg DX (BitVec.ofNat 16 (x % d)) with
        flags := s.flags.allFree s.free, free := s.free + 6, pfx := noPrefixes }) ∧
    (d = 0 ∨ 0xFFFF < x / d → Raises (.divRm .word rm) s 0 none) := by
  intro v d x
  have htraps := s.divTraps_word_iff v
  refine ⟨fun hd hq => ?_, fun ht => execDivRm_raises hs h (htraps.mpr ht)⟩
  have hexec := execDivRm_ok hs h (eq_false_of_ne_true (mt htraps.mp (not_or.mpr ⟨hd, Nat.not_lt.mpr hq⟩)))
  rwa [State.div_word s] at hexec

/-- The three outcomes of IDIV, with `m` the largest quotient, `q` the quotient of the operands and `t` the state with
the results written. -/
theorem idiv_cases {w : Width} (h : s.rmStop rm w false = none) {m : Int} (hm : 2 ^ (w.bits - 1) = m + 1) {q : Int}
    (hquotient : s.quotient w (s.rmValue rm w) = q) {t : State} (hidiv : s.idiv w (s.rmValue rm w) = t) :
    let v := s.rmValue rm w
    let done := exec (.idivRm w rm) s = .next (State.endInstruction { t with
      flags := s.flags.allFree s.free, free := s.free + 7 })
    (v.toInt ≠ 0 → -m ≤ q → q ≤ m → done) ∧
    (v.toInt ≠ 0 → q = -(m + 1) →
      if Config.freeBit (s.free + 6) then
        exec (.idivRm w rm) s = takeException 0 none { s with free := s.free + 7 }
      else done) ∧
    (v.toInt = 0 ∨ q < -(m + 1) ∨ m < q → Raises (.idivRm w rm) s 0 none) := by
  subst hidiv
  intro v done
  have htraps : s.idivTraps w v = true ↔ v.toInt = 0 ∨ q < -(m + 1) ∨ m + 1 ≤ q := by
    rw [State.idivTraps_iff, hquotient, hm]
  have hopen : s.idivOpen w v = true ↔ q = -(m + 1) := by rw [State.idivOpen_iff, hquotient, hm]
  have hpos : 0 < m + 1 := hm ▸ Int.pow_pos (by decide)
  refine ⟨fun hd hlow hhigh => ?_, fun hd hq => ?_, fun ht => execIdivRm_raises hs h (htraps.mpr (by omega))⟩
  · have ht : s.idivTraps w v = false := eq_false_of_ne_true fun e => by have := htraps.mp e; omega
    have ho : s.idivOpen w v = false := eq_false_of_ne_true fun e => by have := hopen.mp e; omega
    exact execIdivRm_ok hs h ht (by rw [ho, Bool.false_and])
  · have ht : s.idivTraps w v = false := eq_false_of_ne_true fun e => by have := htraps.mp e; omega
    have ho : s.idivOpen w v = true := hopen.mpr hq
    split
    case isTrue hfree => exact execIdivRm_traps hs h ht (by rw [ho, hfree, Bool.true_and])
    case isFalse hfree =>
      exact execIdivRm_ok hs h ht (by rw [ho, eq_false_of_ne_true hfree, Bool.and_false])

end

/-- Settles O32: the outcomes of DIV and of IDIV by the test of the divisor and the size of the quotient. -/
theorem divide : Obligations.Divide := by
  refine ⟨fun s rm hs => ⟨divByte_cases hs, divWord_cases hs⟩, fun s rm hs => ⟨fun h => ?_, fun h => ?_⟩⟩
  · intro v d x done
    obtain ⟨hfits, hopen, hraises⟩ := idiv_cases hs h (m := 127) (by decide) (s.quotient_byte v) (s.idiv_byte v)
    refine ⟨fun hd hlow hhigh => .of_exec (hfits hd hlow hhigh), fun hd hq => ?_, hraises⟩
    have hchoice := hopen hd hq
    split at hchoice
    case isTrue hfree => rwa [if_pos hfree]
    case isFalse hfree =>
      rw [if_neg hfree]
      exact .of_exec hchoice
  · intro v d x done
    exact idiv_cases hs h (m := 32767) (by decide) (s.quotient_word v) (s.idiv_word v)

end Sys2Proof.Machine

/-! The flags of a logic result, and the shifts and rotates of r/m (42_logic.md R281, R295). -/

namespace Sys2Proof.Machine

/-- Settles O25: ZF, SF and PF are those of any result; the rest is written as it stands. -/
theorem logicFlagsRule : Obligations.LogicFlagsRule := by
  intro w f r af
  exact ⟨rfl, rfl, f.ofResult_zf_iff r, f.ofResult_sf_iff r, f.ofResult_pf_iff r, rfl, rfl, rfl, rfl, rfl, rfl⟩

/-! Every form of a shift or rotate is `shiftRm` with its operation and its count. -/

section
variable {s : State} {rm : Rm} {w : Width} {op : ShiftOp} {count : Byte} (h : s.rmStop rm w true = none)
include h

theorem shiftRm_zero (hc : shiftCount count = 0) : shiftRm op w rm count s = .ok () s := by
  simp only [shiftRm_eq, h, if_pos hc]

theorem shiftRm_ok (hc : shiftCount count ≠ 0) :
    shiftRm op w rm count s = .ok () { s.setRm rm w (shiftResult op (s.rmValue rm w) count s.flags.cf) with
      flags := shiftFlags s.flags op (s.rmValue rm w) count s.free, free := s.free + 2 } := by
  simp only [shiftRm_eq, h, if_neg hc]

/-- What an instruction does whose effect is `shiftRm`, by its count modulo 32. -/
theorem State.Ready.shiftForm {i : Instr} (hs : s.Ready) (hi : exec i s = perform (shiftRm op w rm count) s) :
    (count.toNat % 32 = 0 → DoesNothing i s) ∧
    (count.toNat % 32 ≠ 0 → WritesRm i s rm w (shiftResult op (s.rmValue rm w) count s.flags.cf)
      (shiftFlags s.flags op (s.rmValue rm w) count s.free) 2) :=
  ⟨fun hc => hs.completes hi (shiftRm_zero h hc), fun hc => hs.writesRmFlags hi (shiftRm_ok h hc)⟩

end

/-- Settles O33: each of the 21 instructions is `shiftRm` of its operation and count. -/
theorem shiftForms : Obligations.ShiftForms := by
  intro s w rm k hs h
  have form {i : Instr} {op : ShiftOp} {count : Byte} := hs.shiftForm (i := i) (op := op) (count := count) h
  simp only [List.forall_mem_cons]
  exact ⟨form rfl, form rfl, form rfl, form rfl, form rfl, form rfl, form rfl, form rfl, form rfl, form rfl, form rfl,
    form rfl, form rfl, form rfl, form rfl, form rfl, form rfl, form rfl, form rfl, form rfl, form rfl,
    List.forall_mem_nil _⟩

end Sys2Proof.Machine

/-! The shifts and rotates of 42_logic.md R296 to R302 in closed form: all steps at once. -/

namespace Sys2Proof.Machine

/-! One step brings a bit in at the low or at the high end. -/

theorem getLsbD_bitLow {n : Nat} (hn : 0 < n) (b : Bool) (i : Nat) :
    (bitLow n b).getLsbD i = (decide (i = 0) && b) := by
  rw [bitLow, BitVec.getLsbD_ofNat]
  cases b <;> cases i <;> simp [hn, Nat.testBit_succ]

theorem getLsbD_bitHigh {n i : Nat} (b : Bool) (hi : i < n) :
    (bitHigh n b).getLsbD i = (decide (i = n - 1) && b) := by
  rw [bitHigh, BitVec.getLsbD_shiftLeft, getLsbD_bitLow (by omega)]
  by_cases h : i = n - 1
  · simp [h, show n - 1 < n by omega]
  · simp [h, show i < n - 1 by omega]

theorem getLsbD_shiftLeft_or_bitLow {n i : Nat} (x : BitVec n) (b : Bool) (hi : i < n) :
    (x <<< 1 ||| bitLow n b).getLsbD i = if i = 0 then b else x.getLsbD (i - 1) := by
  rw [BitVec.getLsbD_or, BitVec.getLsbD_shiftLeft, getLsbD_bitLow (by omega)]
  by_cases h : i = 0
  · simp [h]
  · simp [h, hi]

theorem getLsbD_ushiftRight_or_bitHigh {n i : Nat} (x : BitVec n) (b : Bool) (hi : i < n) :
    (x >>> 1 ||| bitHigh n b).getLsbD i = if i = n - 1 then b else x.getLsbD (i + 1) := by
  rw [BitVec.getLsbD_or, BitVec.getLsbD_ushiftRight, getLsbD_bitHigh b hi, Nat.add_comm]
  by_cases h : i = n - 1
  · simp [h, show n - 1 + 1 = n by omega]
  · simp [h]

/-! Rotations, bit by bit and one place at a time. -/

/-- Bit `i` of a rotation to the right is the bit `r` places on, around the width. -/
theorem getLsbD_rotateRight_eq_mod {n i : Nat} (x : BitVec n) (r : Nat) (hi : i < n) :
    (x.rotateRight r).getLsbD i = x.getLsbD ((r + i) % n) := by
  have hr : r % n < n := Nat.mod_lt r (by omega)
  rw [BitVec.getLsbD_rotateRight, ← Nat.mod_add_mod]
  by_cases h : i < n - r % n
  · simp [h, Nat.mod_eq_of_lt (show r % n + i < n by omega)]
  · have hwrap : (r % n + i) % n = i - (n - r % n) := by
      rw [Nat.mod_eq_sub_mod (by omega), Nat.mod_eq_of_lt (by omega)]
      omega
    simp [h, hi, hwrap]

theorem rotateLeft_zero {n : Nat} (x : BitVec n) : x.rotateLeft 0 = x := by
  apply BitVec.eq_of_getMsbD_eq
  intro i hi
  simp [BitVec.getMsbD_rotateLeft, hi, Nat.mod_eq_of_lt hi]

theorem rotateRight_zero {n : Nat} (x : BitVec n) : x.rotateRight 0 = x := by
  apply BitVec.eq_of_getLsbD_eq
  intro i hi
  rw [getLsbD_rotateRight_eq_mod x 0 hi, Nat.zero_add, Nat.mod_eq_of_lt hi]

theorem rotateLeft_succ {n : Nat} (x : BitVec n) (k : Nat) : x.rotateLeft (k + 1) = (x.rotateLeft k).rotateLeft 1 := by
  apply BitVec.eq_of_getMsbD_eq
  intro i hi
  have hlt : (1 + i) % n < n := Nat.mod_lt _ (by omega)
  simp [BitVec.getMsbD_rotateLeft, hi, hlt, Nat.add_assoc]

theorem rotateRight_succ {n : Nat} (x : BitVec n) (k : Nat) :
    x.rotateRight (k + 1) = (x.rotateRight k).rotateRight 1 := by
  apply BitVec.eq_of_getLsbD_eq
  intro i hi
  have hlt : (1 + i) % n < n := Nat.mod_lt _ (by omega)
  rw [getLsbD_rotateRight_eq_mod _ _ hi, getLsbD_rotateRight_eq_mod _ _ hi, getLsbD_rotateRight_eq_mod _ _ hlt,
    Nat.add_mod_mod, Nat.add_assoc]

theorem getLsbD_rotateRight_one {n i : Nat} (x : BitVec n) (hi : i < n) :
    (x.rotateRight 1).getLsbD i = if i = n - 1 then x.getLsbD 0 else x.getLsbD (i + 1) := by
  rw [getLsbD_rotateRight_eq_mod x 1 hi, Nat.add_comm]
  by_cases h : i = n - 1
  · rw [if_pos h, show i + 1 = n by omega, Nat.mod_self]
  · rw [if_neg h, Nat.mod_eq_of_lt (by omega)]

theorem getLsbD_rotateLeft_one {n i : Nat} (x : BitVec n) (hi : i < n) :
    (x.rotateLeft 1).getLsbD i = if i = 0 then x.msb else x.getLsbD (i - 1) := by
  rw [BitVec.getLsbD_eq_getMsbD, BitVec.getMsbD_rotateLeft]
  by_cases h : i = 0
  · have hn : 0 < n := by omega
    simp [h, hn, show 1 + (n - 1) = n by omega, BitVec.msb]
  · have hlt : 1 + (n - 1 - i) < n := by omega
    rw [BitVec.getLsbD_eq_getMsbD, Nat.mod_eq_of_lt hlt, show n - 1 - (i - 1) = 1 + (n - 1 - i) by omega]
    simp [h, hi, show n - 1 - i < n by omega, show i - 1 < n by omega]

/-! One step. -/

section
variable {n : Nat} (hn : 0 < n) (x : BitVec n) (cf : Bool)

theorem shiftStep_sar : shiftStep .sar x cf = (x.sshiftRight 1, x.getLsbD 0) := by
  refine Prod.ext (BitVec.eq_of_getLsbD_eq fun i hi => ?_) rfl
  have hlast : 1 + i < n ↔ i ≠ n - 1 := by omega
  simp only [shiftStep, getLsbD_ushiftRight_or_bitHigh _ _ hi, BitVec.getLsbD_sshiftRight, hlast, Nat.not_le.mpr hi]
  simp [Nat.add_comm]

theorem shiftStep_rol : shiftStep .rol x cf = (x.rotateLeft 1, x.msb) := by
  refine Prod.ext (BitVec.eq_of_getLsbD_eq fun i hi => ?_) rfl
  simp only [shiftStep, getLsbD_shiftLeft_or_bitLow _ _ hi, getLsbD_rotateLeft_one x hi]

theorem shiftStep_ror : shiftStep .ror x cf = (x.rotateRight 1, x.getLsbD 0) := by
  refine Prod.ext (BitVec.eq_of_getLsbD_eq fun i hi => ?_) rfl
  simp only [shiftStep, getLsbD_ushiftRight_or_bitHigh _ _ hi, getLsbD_rotateRight_one x hi]

include hn

theorem shiftStep_rcl :
    BitVec.ofBool (shiftStep .rcl x cf).2 ++ (shiftStep .rcl x cf).1 = (BitVec.ofBool cf ++ x).rotateLeft 1 := by
  apply BitVec.eq_of_getLsbD_eq
  intro i hi
  rw [getLsbD_rotateLeft_one _ hi, BitVec.getLsbD_append, BitVec.getLsbD_append, BitVec.msb_append]
  by_cases hin : i < n
  · rw [if_pos hin, shiftStep, getLsbD_shiftLeft_or_bitLow _ _ hin]
    by_cases hfirst : i = 0
    · simp [hfirst]
    · simp [hfirst, show i - 1 < n by omega]
  · have hi' : i = n := by omega
    simp [shiftStep, hi', hn, show n ≠ 0 by omega, BitVec.msb_eq_getLsbD_last]

theorem shiftStep_rcr :
    BitVec.ofBool (shiftStep .rcr x cf).2 ++ (shiftStep .rcr x cf).1 = (BitVec.ofBool cf ++ x).rotateRight 1 := by
  apply BitVec.eq_of_getLsbD_eq
  intro i hi
  rw [getLsbD_rotateRight_one _ hi, BitVec.getLsbD_append, BitVec.getLsbD_append, BitVec.getLsbD_append]
  by_cases hin : i < n
  · rw [if_pos hin, shiftStep, getLsbD_ushiftRight_or_bitHigh _ _ hin, if_neg (by omega : i ≠ 1 + n - 1)]
    by_cases hlast : i = n - 1
    · simp [hlast, show n - 1 + 1 = n by omega]
    · simp [hlast, show i + 1 < n by omega]
  · have hi' : i = n := by omega
    simp [shiftStep, hi', hn]

end

/-! All steps: the last one comes after the others. -/

theorem shiftSteps_succ {n : Nat} (op : ShiftOp) (k : Nat) (x : BitVec n) (cf : Bool) :
    shiftSteps op (k + 1) x cf = shiftStep op (shiftSteps op k x cf).1 (shiftSteps op k x cf).2 := by
  induction k generalizing x cf with
  | zero => rfl
  | succ k ih => exact ih (shiftStep op x cf).1 (shiftStep op x cf).2

section
variable {n : Nat} (x : BitVec n) (cf : Bool) (k : Nat)

theorem shiftSteps_shl_fst : (shiftSteps .shl k x cf).1 = x <<< k := by
  induction k with
  | zero => exact (BitVec.shiftLeft_zero x).symm
  | succ k ih => rw [shiftSteps_succ, ih, BitVec.shiftLeft_add, shiftStep]

theorem shiftSteps_shr_fst : (shiftSteps .shr k x cf).1 = x >>> k := by
  induction k with
  | zero => exact (BitVec.ushiftRight_zero x).symm
  | succ k ih => rw [shiftSteps_succ, ih, BitVec.shiftRight_add, shiftStep]

theorem shiftSteps_sar_fst : (shiftSteps .sar k x cf).1 = x.sshiftRight k := by
  induction k with
  | zero => exact BitVec.sshiftRight_zero.symm
  | succ k ih => rw [shiftSteps_succ, ih, BitVec.sshiftRight_add, shiftStep_sar]

theorem shiftSteps_rol_fst : (shiftSteps .rol k x cf).1 = x.rotateLeft k := by
  induction k with
  | zero => exact (rotateLeft_zero _).symm
  | succ k ih => rw [shiftSteps_succ, ih, rotateLeft_succ, shiftStep_rol]

theorem shiftSteps_ror_fst : (shiftSteps .ror k x cf).1 = x.rotateRight k := by
  induction k with
  | zero => exact (rotateRight_zero _).symm
  | succ k ih => rw [shiftSteps_succ, ih, rotateRight_succ, shiftStep_ror]

theorem shiftSteps_rcl (hn : 0 < n) :
    BitVec.ofBool (shiftSteps .rcl k x cf).2 ++ (shiftSteps .rcl k x cf).1 = (BitVec.ofBool cf ++ x).rotateLeft k := by
  induction k with
  | zero => exact (rotateLeft_zero _).symm
  | succ k ih => rw [shiftSteps_succ, shiftStep_rcl hn, ih, ← rotateLeft_succ]

theorem shiftSteps_rcr (hn : 0 < n) :
    BitVec.ofBool (shiftSteps .rcr k x cf).2 ++ (shiftSteps .rcr k x cf).1 =
      (BitVec.ofBool cf ++ x).rotateRight k := by
  induction k with
  | zero => exact (rotateRight_zero _).symm
  | succ k ih => rw [shiftSteps_succ, shiftStep_rcr hn, ih, ← rotateRight_succ]

end

/-! CF: the last bit shifted out. -/

section
variable {n : Nat} (hn : 0 < n) (x : BitVec n) (cf : Bool) {c : Nat} (hc : c ≠ 0)
include hc

theorem shiftSteps_shl_snd : (shiftSteps .shl c x cf).2 = (decide (c ≤ n) && x.getLsbD (n - c)) := by
  obtain ⟨k, rfl⟩ := Nat.exists_eq_succ_of_ne_zero hc
  rw [shiftSteps_succ, shiftSteps_shl_fst, shiftStep, BitVec.msb_shiftLeft, BitVec.getMsbD]
  by_cases h : k < n
  · simp [h, Nat.sub_sub, Nat.add_comm]
  · simp [h]

theorem shiftSteps_shr_snd : (shiftSteps .shr c x cf).2 = x.getLsbD (c - 1) := by
  obtain ⟨k, rfl⟩ := Nat.exists_eq_succ_of_ne_zero hc
  rw [shiftSteps_succ, shiftSteps_shr_fst, shiftStep, BitVec.getLsbD_ushiftRight]
  rfl

include hn

theorem shiftSteps_sar_snd : (shiftSteps .sar c x cf).2 = if c ≤ n then x.getLsbD (c - 1) else x.msb := by
  obtain ⟨k, rfl⟩ := Nat.exists_eq_succ_of_ne_zero hc
  rw [shiftSteps_succ, shiftSteps_sar_fst, shiftStep, BitVec.getLsbD_sshiftRight, decide_eq_false (by omega)]
  rfl

theorem shiftSteps_rol_snd : (shiftSteps .rol c x cf).2 = (shiftSteps .rol c x cf).1.getLsbD 0 := by
  obtain ⟨k, rfl⟩ := Nat.exists_eq_succ_of_ne_zero hc
  rw [shiftSteps_succ, shiftStep, getLsbD_shiftLeft_or_bitLow _ _ hn, if_pos rfl]

theorem shiftSteps_ror_snd : (shiftSteps .ror c x cf).2 = (shiftSteps .ror c x cf).1.msb := by
  obtain ⟨k, rfl⟩ := Nat.exists_eq_succ_of_ne_zero hc
  rw [shiftSteps_succ, shiftStep, BitVec.msb_eq_getLsbD_last, getLsbD_ushiftRight_or_bitHigh _ _ (by omega), if_pos rfl]

end

theorem msb_ofBool_append {n : Nat} (b : Bool) (x : BitVec n) : (BitVec.ofBool b ++ x).msb = b := by
  rw [BitVec.msb_append, if_neg one_ne_zero, BitVec.msb_ofBool]

theorem shiftSteps_rcl_snd {n : Nat} (hn : 0 < n) (x : BitVec n) (cf : Bool) (c : Nat) :
    (shiftSteps .rcl c x cf).2 = ((BitVec.ofBool cf ++ x).rotateLeft c).msb := by
  rw [← shiftSteps_rcl x cf c hn, msb_ofBool_append]

theorem shiftSteps_rcr_snd {n : Nat} (hn : 0 < n) (x : BitVec n) (cf : Bool) (c : Nat) :
    (shiftSteps .rcr c x cf).2 = ((BitVec.ofBool cf ++ x).rotateRight c).msb := by
  rw [← shiftSteps_rcr x cf c hn, msb_ofBool_append]

/-! The flags, for a count that is not 0 modulo 32. -/

section
variable {n : Nat} (f : Flags) (op : ShiftOp) (x : BitVec n) {count : Byte} (n0 : Nat) (hc : shiftCount count ≠ 0)
include hc

theorem shiftFlags_eq :
    shiftFlags f op x count n0 =
      { (if op.isShift then { f.ofResult (shiftResult op x count f.cf) with af := Config.freeBit (n0 + 1) } else f) with
        cf := (shiftSteps op (shiftCount count) x f.cf).2
        ovf := if shiftCount count = 1 then
            shiftOverflow op x (shiftResult op x count f.cf) (shiftSteps op (shiftCount count) x f.cf).2
          else Config.freeBit n0 } := if_neg hc

theorem shiftFlags_cf : (shiftFlags f op x count n0).cf = (shiftSteps op (shiftCount count) x f.cf).2 := by
  rw [shiftFlags_eq f op x n0 hc]

theorem shiftFlags_ovf_of_ne_one (h : shiftCount count ≠ 1) :
    (shiftFlags f op x count n0).ovf = Config.freeBit n0 := by
  rw [shiftFlags_eq f op x n0 hc, if_neg h]

theorem shiftFlags_of_isShift (hop : op.isShift = true) :
    let g := shiftFlags f op x count n0
    let r := shiftResult op x count f.cf
    g.zf = (f.ofResult r).zf ∧ g.sf = (f.ofResult r).sf ∧ g.pf = (f.ofResult r).pf ∧
      g.af = Config.freeBit (n0 + 1) := by
  simp only [shiftFlags_eq f op x n0 hc, hop, if_true, and_self]

theorem shiftFlags_of_rotate (hop : op.isShift = false) :
    let g := shiftFlags f op x count n0
    g.zf = f.zf ∧ g.sf = f.sf ∧ g.pf = f.pf ∧ g.af = f.af := by
  simp only [shiftFlags_eq f op x n0 hc, hop, Bool.false_eq_true, if_false, and_self]

end

/-- No count, 0 included, writes the system flags or DF. -/
theorem shiftFlags_unwritten {n : Nat} (f : Flags) (op : ShiftOp) (x : BitVec n) (count : Byte) (n0 : Nat) :
    let g := shiftFlags f op x count n0
    g.tf = f.tf ∧ g.ie = f.ie ∧ g.df = f.df ∧ g.iopl = f.iopl ∧ g.nt = f.nt := by
  by_cases hc : shiftCount count = 0
  · simp only [shiftFlags, if_pos hc, and_self]
  · rw [shiftFlags_eq f op x n0 hc]
    cases op.isShift <;> exact ⟨rfl, rfl, rfl, rfl, rfl⟩

/-! OF after a single step. -/

section
variable {n : Nat} (f : Flags) (x : BitVec n) {count : Byte} (n0 : Nat) (h : shiftCount count = 1)
include h

theorem shiftFlags_ovf_of_eq_one (op : ShiftOp) :
    (shiftFlags f op x count n0).ovf =
      shiftOverflow op x (shiftResult op x count f.cf) (shiftFlags f op x count n0).cf := by
  have hc : shiftCount count ≠ 0 := by omega
  rw [shiftFlags_cf f op x n0 hc, shiftFlags_eq f op x n0 hc, if_pos h]

theorem shiftFlags_shl_ovf_of_eq_one : (shiftFlags f .shl x count n0).ovf = ((x <<< 1).msb != x.msb) := by
  have hc : shiftCount count ≠ 0 := by omega
  rw [shiftFlags_ovf_of_eq_one f x n0 h .shl, shiftFlags_cf f .shl x n0 hc, shiftResult, h]
  rfl

end

theorem bits_pos (w : Width) : 0 < w.bits := by cases w <;> decide

/-- Settles O34: the results by induction on the count, CF by the last step, the other flags by whether the
operation is a shift. -/
theorem shiftResults : Obligations.ShiftResults := by
  refine ⟨fun w x k cf => ?_, fun w f x k n hc => ?_⟩
  · have hw := bits_pos w
    exact ⟨shiftSteps_shl_fst x cf _, shiftSteps_shr_fst x cf _, shiftSteps_sar_fst x cf _, shiftSteps_rol_fst x cf _,
      shiftSteps_ror_fst x cf _, shiftSteps_rcl x cf _ hw, shiftSteps_rcr x cf _ hw⟩
  · have hw := bits_pos w
    refine ⟨?_, ?_, ?_, ?_, ?_, ?_, ?_, fun hone => ?_, fun op hop => ?_, fun op hop => ?_, fun op => ?_⟩
    · exact (shiftFlags_cf f .shl x n hc).trans (shiftSteps_shl_snd x f.cf hc)
    · exact (shiftFlags_cf f .shr x n hc).trans (shiftSteps_shr_snd x f.cf hc)
    · exact (shiftFlags_cf f .sar x n hc).trans (shiftSteps_sar_snd hw x f.cf hc)
    · exact (shiftFlags_cf f .rol x n hc).trans (shiftSteps_rol_snd hw x f.cf hc)
    · exact (shiftFlags_cf f .ror x n hc).trans (shiftSteps_ror_snd hw x f.cf hc)
    · exact (shiftFlags_cf f .rcl x n hc).trans (shiftSteps_rcl_snd hw x f.cf _)
    · exact (shiftFlags_cf f .rcr x n hc).trans (shiftSteps_rcr_snd hw x f.cf _)
    · have hovf := shiftFlags_ovf_of_eq_one f x n hone
      simp only [List.forall_mem_cons]
      exact ⟨shiftFlags_shl_ovf_of_eq_one f x n hone, hovf .shr, hovf .sar,
        ⟨hovf .rol, hovf .rcl, List.forall_mem_nil _⟩, ⟨hovf .ror, hovf .rcr, List.forall_mem_nil _⟩⟩
    · have hshift : op.isShift = true :=
        (by decide : ∀ op ∈ [ShiftOp.shl, .shr, .sar], op.isShift = true) op hop
      obtain ⟨hzf, hsf, hpf, haf⟩ := shiftFlags_of_isShift f op x n hc hshift
      rw [hzf, hsf, hpf]
      exact ⟨beq_iff_eq, f.ofResult_sf_iff _, f.ofResult_pf_iff _, haf⟩
    · have hrotate : op.isShift = false :=
        (by decide : ∀ op ∈ [ShiftOp.rol, .ror, .rcl, .rcr], op.isShift = false) op hop
      exact shiftFlags_of_rotate f op x n hc hrotate
    · exact ⟨shiftFlags_ovf_of_ne_one f op x n hc, shiftFlags_unwritten f op x k n⟩

end Sys2Proof.Machine

/-! The string instructions (43_string.md R310 to R317) taken alone: each primitive as one update of the state it starts
in. -/

namespace Sys2Proof.Machine

/-! From the primitive to the instruction. -/

theorem stringInstr_once {i : Instr} {compares : Bool} {once : M Unit} {s : State} (hs : s.Ready) :
    stringInstr i compares once s = settle (once s) := by
  rw [stringInstr, hs.1]
  exact performString_eq hs.2

/-- A string instruction alone completes in the state its primitive ends in. -/
theorem State.Ready.completesString {i : Instr} {compares : Bool} {once : M Unit} {s t : State} (hs : s.Ready)
    (hi : exec i s = stringInstr i compares once s) (hm : once s = .ok () t) : exec i s = .next t.endInstruction := by
  rw [hi, stringInstr_once hs, hm, settle_ok]

/-- A string instruction alone whose primitive begins with the test of an element that may not be accessed. -/
theorem State.Ready.raisesString {i : Instr} {compares write : Bool} {c : State → Option Stop} {f : Unit → M Unit}
    {s : State} {r : SReg} {off : Word} {w : Width} {v : Byte} {e : Option Word} (hs : s.Ready)
    (hi : exec i s = stringInstr i compares (check c >>= f) s) (hc : c s = s.accessStop r off w write)
    (h : s.accessStop r off w write = some (.exc v e)) : Raises i s v e := by
  have hstop : (check c >>= f) s = .error (.exc v e) s := bind_error (check_some (hc.trans h))
  rw [Raises, hi, stringInstr_once hs, hstop, settle_exc e s (State.accessStop_exc h)]

/-! The step of an index register after an update that leaves the register and DF. -/

theorem State.stepIndex_eq {s t : State} {r : Reg} (hreg : t.reg r = s.reg r) (hflags : t.flags = s.flags) (w : Width) :
    t.stepIndex r w = t.setReg r (s.reg r + s.stringDelta w) := by
  rw [stepIndex, hreg, stringDelta, hflags, stringDelta]

/-- The step of SI and then DI. -/
theorem State.stepIndex_stepIndex_eq {s t : State} (hsi : t.reg SI = s.reg SI) (hdi : t.reg DI = s.reg DI)
    (hflags : t.flags = s.flags) (w : Width) :
    (t.stepIndex SI w).stepIndex DI w =
      (t.setReg SI (s.reg SI + s.stringDelta w)).setReg DI (s.reg DI + s.stringDelta w) := by
  rw [stepIndex_eq hsi hflags w]
  exact stepIndex_eq ((t.setReg_reg_ne _ (by decide)).trans hdi) hflags w

/-- The accumulator is none of the other registers. -/
theorem State.reg_setAcc (s : State) (w : Width) (v : BitVec w.bits) {r : Reg} (h : r ≠ AX) :
    (s.setAcc w v).reg r = s.reg r :=
  s.sameRegs_putReg w AX v r (by cases w <;> simpa [rmRegs] using h)

theorem State.reg_setDest (s : State) (w : Width) (v : BitVec w.bits) (r : Reg) : (s.setDest w v).reg r = s.reg r :=
  s.reg_store ..

theorem State.setDest_flags (s : State) (w : Width) (v : BitVec w.bits) : (s.setDest w v).flags = s.flags :=
  s.store_flags ..

/-- The record of the bus and the count of free values are no part of memory. -/
theorem State.setDest_bus_free_comm (s : State) (b : List BusEvent) (n : Nat) (w : Width) (v : BitVec w.bits) :
    ({ s with free := n, bus := b } : State).setDest w v = { s.setDest w v with free := n, bus := b } := by
  cases w <;> rfl

/-! The primitives where their tests pass. -/

section
variable {s : State} {w : Width}

theorem movsOnce_ok (hsrc : s.sourceStop w = none) (hdst : s.destStop w true = none) :
    movsOnce w s = .ok () (((s.setDest w (s.source w)).setReg SI (s.reg SI + s.stringDelta w)).setReg DI
      (s.reg DI + s.stringDelta w)) := by
  rw [movsOnce, bind_ok (check_none hsrc), bind_ok (check_none hdst), update_apply,
    State.stepIndex_stepIndex_eq (s.reg_setDest w _ SI) (s.reg_setDest w _ DI) (s.setDest_flags w _) w]

theorem cmpsOnce_ok (hsrc : s.sourceStop w = none) (hdst : s.destStop w false = none) :
    cmpsOnce w s = .ok () { (s.setReg SI (s.reg SI + s.stringDelta w)).setReg DI (s.reg DI + s.stringDelta w) with
      flags := subFlags s.flags (s.source w) (s.dest w) false } := by
  rw [cmpsOnce, bind_ok (check_none hsrc), bind_ok (check_none hdst), update_apply,
    State.stepIndex_stepIndex_eq (s := s) rfl rfl rfl w]

theorem scasOnce_ok (hdst : s.destStop w false = none) :
    scasOnce w s = .ok () { s.setReg DI (s.reg DI + s.stringDelta w) with
      flags := subFlags s.flags (s.acc w) (s.dest w) false } := bind_ok (check_none hdst)

theorem lodsOnce_ok (hsrc : s.sourceStop w = none) :
    lodsOnce w s = .ok () ((s.setAcc w (s.source w)).setReg SI (s.reg SI + s.stringDelta w)) := by
  rw [lodsOnce, bind_ok (check_none hsrc), update_apply,
    State.stepIndex_eq (s.reg_setAcc w _ (by decide)) (s.putReg_flags w AX _) w]

theorem stosOnce_ok (hdst : s.destStop w true = none) :
    stosOnce w s = .ok () ((s.setDest w (s.acc w)).setReg DI (s.reg DI + s.stringDelta w)) := by
  rw [stosOnce, bind_ok (check_none hdst), update_apply,
    State.stepIndex_eq (s.reg_setDest w _ DI) (s.setDest_flags w _) w]

theorem insOnce_ok (hio : s.mayDoIo = true) (hdst : s.destStop w true = none) :
    insOnce w s = .ok ()
      { (s.setDest w (portValue (s.reg DX) w s.free)).setReg DI (s.reg DI + s.stringDelta w) with
        free := s.free + portDraws (s.reg DX) w
        bus := portOperations .ioRead (s.reg DX) w (asWord w (portValue (s.reg DX) w s.free)) ++ s.bus } := by
  have hread : (do ioRead (← look fun s => s.reg DX) w) s = .ok (portValue (s.reg DX) w s.free) { s with
      free := s.free + portDraws (s.reg DX) w
      bus := portOperations .ioRead (s.reg DX) w (asWord w (portValue (s.reg DX) w s.free)) ++ s.bus } :=
    ioRead_eq (s.reg DX) w s
  rw [insOnce, bind_ok (requireIopl_ok hio), bind_ok (check_none hdst), bind_ok hread, update_apply,
    State.stepIndex_eq (State.reg_setDest ..) (State.setDest_flags ..) w, State.setDest_bus_free_comm]
  rfl

theorem outsOnce_ok (hio : s.mayDoIo = true) (hsrc : s.sourceStop w = none) :
    outsOnce w s = .ok () { s.setReg SI (s.reg SI + s.stringDelta w) with
      bus := portOperations .ioWrite (s.reg DX) w (asWord w (s.source w)) ++ s.bus } :=
  (bind_ok (requireIopl_ok hio)).trans (bind_ok (check_none hsrc))

end

/-- Settles O35: alone each string instruction is its primitive, whose tests come before its one update. -/
theorem stringOnce : Obligations.StringOnce := by
  intro s w hs d src si di stored
  simp only [← portOperations_eq_transferOperations]
  have hstored (v : BitVec w.bits) : s.SameMemory (stored v) (s.cells s.es (s.reg DI) w) :=
    s.sameMemory_storeVia s.es (s.reg DI) w v
  refine ⟨fun v e => ⟨fun h i hi => ?_, fun h => ?_, fun h => ?_⟩,
    fun hsrc => ⟨fun hdst => ⟨?_, hstored _⟩, fun hdst => ?_, ?_, fun hio => ?_⟩, fun hdst => ?_,
    fun hdst => ⟨⟨?_, hstored _⟩, fun hio => ⟨?_, hstored _⟩⟩⟩
  · simp only [List.mem_cons, List.not_mem_nil, or_false] at hi
    rcases hi with rfl | rfl | rfl <;> exact hs.raisesString rfl rfl h
  · exact hs.raisesString rfl rfl h
  · exact hs.raisesString rfl rfl h
  · exact hs.completesString rfl (movsOnce_ok hsrc hdst)
  · exact hs.completesString rfl (cmpsOnce_ok hsrc hdst)
  · exact hs.completesString rfl (lodsOnce_ok hsrc)
  · exact hs.completesString rfl (outsOnce_ok hio hsrc)
  · exact hs.completesString rfl (scasOnce_ok hdst)
  · exact hs.completesString rfl (stosOnce_ok hdst)
  · exact hs.completesString rfl (insOnce_ok hio hdst)

end Sys2Proof.Machine

/-! One step of a repeated string instruction (43_string.md R320, R321). -/

namespace Sys2Proof.Machine

/-! What the end of an iteration needs of the state the primitive leaves. -/

/-- CX, the prefixes, the place of the instruction and its single-step trap are as before. -/
structure State.SameIteration (s t : State) : Prop where
  cx : t.reg CX = s.reg CX
  pfx : t.pfx = s.pfx
  ip : t.ip = s.ip
  ipWrap : t.ipWrap = s.ipWrap
  curIp : t.curIp = s.curIp
  trap : t.trap = s.trap

namespace State.SameIteration

theorem refl (s : State) : s.SameIteration s := ⟨rfl, rfl, rfl, rfl, rfl, rfl⟩

theorem trans {s t u : State} (h : s.SameIteration t) (k : t.SameIteration u) : s.SameIteration u :=
  ⟨k.cx.trans h.cx, k.pfx.trans h.pfx, k.ip.trans h.ip, k.ipWrap.trans h.ipWrap, k.curIp.trans h.curIp,
    k.trap.trans h.trap⟩

end State.SameIteration

theorem State.sameIteration_stepIndex (s : State) {r : Reg} (h : CX ≠ r) (w : Width) :
    s.SameIteration (s.stepIndex r w) := ⟨s.setReg_reg_ne _ h, rfl, rfl, rfl, rfl, rfl⟩

theorem State.sameIteration_setDest (s : State) (w : Width) (v : BitVec w.bits) : s.SameIteration (s.setDest w v) := by
  constructor <;> simp [setDest]

theorem State.sameIteration_setAcc (s : State) (w : Width) (v : BitVec w.bits) : s.SameIteration (s.setAcc w v) :=
  ⟨s.reg_setAcc w v (by decide), s.putReg_pfx .., s.putReg_ip .., s.putReg_ipWrap .., s.putReg_curIp ..,
    s.putReg_trap ..⟩

theorem State.sameIteration_ioWrite (s : State) (port : Word) (w : Width) (v : BitVec w.bits) :
    s.SameIteration (s.ioWrite port w v) := ⟨rfl, rfl, rfl, rfl, rfl, rfl⟩

/-- An effect that completes leaves what the end of an iteration needs. -/
def KeepsIteration {α : Type} (m : M α) : Prop := ∀ s a t, m s = .ok a t → s.SameIteration t

namespace KeepsIteration

variable {α β : Type}

theorem bind {m : M α} {f : α → M β} (hm : KeepsIteration m) (hf : ∀ a, KeepsIteration (f a)) :
    KeepsIteration (m >>= f) := by
  intro s b u h
  rw [bind_apply] at h
  cases hms : m s with
  | ok a t =>
    rw [hms] at h
    exact (hm s a t hms).trans (hf a t b u h)
  | error e t =>
    rw [hms] at h
    cases h

theorem update {g : State → State} (h : ∀ s : State, s.SameIteration (g s)) : KeepsIteration (update g) := by
  intro s a t ht
  cases ht
  exact h s

theorem require (p : State → Bool) (e : Stop) : KeepsIteration (require p e) := by
  intro s a t h
  rw [Machine.require] at h
  split at h <;> cases h
  exact .refl s

theorem check (p : State → Option Stop) : KeepsIteration (check p) := by
  intro s a t h
  rw [Machine.check] at h
  split at h <;> cases h
  exact .refl s

/-- A test first: what follows may rely on nothing of it. -/
theorem checkThen {p : State → Option Stop} {m : M α} (h : KeepsIteration m) :
    KeepsIteration (Machine.check p >>= fun _ => m) := bind (check p) fun _ => h

theorem requireIoplThen {m : M α} (h : KeepsIteration m) : KeepsIteration (requireIopl >>= fun _ => m) :=
  bind (require _ _) fun _ => h

theorem readPort (f : State → Word) (w : Width) : KeepsIteration (do ioRead (← look f) w) := by
  intro s a t h
  cases h
  exact ⟨rfl, rfl, rfl, rfl, rfl, rfl⟩

/-! The primitives write SI, DI, AX, the flags, memory, the record of the bus and the count of free values only. -/

theorem movsOnce (w : Width) : KeepsIteration (movsOnce w) :=
  .checkThen <| .checkThen <| .update fun s =>
    ((s.sameIteration_setDest w _).trans (State.sameIteration_stepIndex _ (by decide) w)).trans
      (State.sameIteration_stepIndex _ (by decide) w)

theorem cmpsOnce (w : Width) : KeepsIteration (cmpsOnce w) :=
  .checkThen <| .checkThen <| .update fun s =>
    ((s.sameIteration_stepIndex (r := SI) (by decide) w).trans
      (State.sameIteration_stepIndex _ (r := DI) (by decide) w)).trans ⟨rfl, rfl, rfl, rfl, rfl, rfl⟩

theorem scasOnce (w : Width) : KeepsIteration (scasOnce w) :=
  .checkThen <| .update fun s =>
    (s.sameIteration_stepIndex (r := DI) (by decide) w).trans ⟨rfl, rfl, rfl, rfl, rfl, rfl⟩

theorem lodsOnce (w : Width) : KeepsIteration (lodsOnce w) :=
  .checkThen <| .update fun s =>
    (s.sameIteration_setAcc w _).trans (State.sameIteration_stepIndex _ (by decide) w)

theorem stosOnce (w : Width) : KeepsIteration (stosOnce w) :=
  .checkThen <| .update fun s =>
    (s.sameIteration_setDest w _).trans (State.sameIteration_stepIndex _ (by decide) w)

theorem insOnce (w : Width) : KeepsIteration (insOnce w) :=
  .requireIoplThen <| .checkThen <| .bind (.readPort _ w) fun v => .update fun s =>
    (s.sameIteration_setDest w v).trans (State.sameIteration_stepIndex _ (by decide) w)

theorem outsOnce (w : Width) : KeepsIteration (outsOnce w) :=
  .requireIoplThen <| .checkThen <| .update fun s =>
    (s.sameIteration_ioWrite _ w _).trans (State.sameIteration_stepIndex _ (by decide) w)

end KeepsIteration

/-! The iteration. -/

theorem stringInstr_repeated {i : Instr} {compares z : Bool} {once : M Unit} {s : State} (hr : s.pfx.rep = some z)
    (hl : s.lockAllowed = true) : stringInstr i compares once s = settle (iterate i compares z once s) := by
  rw [stringInstr, hr]
  exact performString_eq hl

/-- A primitive that stops ends the iteration in the state it leaves. -/
theorem iterate_error {i : Instr} {compares z : Bool} {once : M Unit} {s u : State} {e : Stop} (h : s.reg CX ≠ 0)
    (hu : once s = .error e u) : iterate i compares z once s = .error e u := by
  simp only [iterate, look_bind, if_neg h]
  exact bind_error hu

section
variable {i : Instr} {compares z : Bool} {once : M Unit} {s u : State} (hr : s.pfx.rep = some z)
  (hl : s.lockAllowed = true) (hi : exec i s = stringInstr i compares once s)
include hr hl hi

theorem repeated_zero (h : s.reg CX = 0) : DoesNothing i s := by
  rw [DoesNothing, hi, stringInstr_repeated hr hl, iterate_zero h, settle_ok, State.endInstruction]

theorem repeated_error {v : Byte} {e : Option Word} (h : s.reg CX ≠ 0) (hu : once s = .error (.exc v e) u)
    (hv : v ≠ 16) : exec i s = takeException v e u := by
  rw [hi, stringInstr_repeated hr hl, iterate_error h hu, settle_exc e u hv]

/-- CX less 1, then the end of the instruction or the return to its first byte. -/
theorem repeated_ok (hkeeps : KeepsIteration once) (h : s.reg CX ≠ 0) (hu : once s = .ok () u) :
    exec i s =
      if s.reg CX = 1 ∨ (compares = true ∧ u.flags.zf ≠ z) then .next (u.setReg CX (s.reg CX - 1)).endInstruction
      else .next { u.setReg CX (s.reg CX - 1) with
        ip := s.curIp, ipWrap := false, trap := s.trap && Config.stepsEachIteration, pfx := noPrefixes
        repeating := some { instr := i, pfx := s.pfx, ip := s.ip, ipWrap := s.ipWrap } } := by
  obtain ⟨hcx, hpfx, hip, hwrap, hcur, htrap⟩ := hkeeps s () u hu
  have hone : s.reg CX - 1 = 0 ↔ s.reg CX = 1 := sub_eq_zero
  rw [hi, stringInstr_repeated hr hl, iterate_step h hu, hcx]
  simp only [hone, ← hpfx, ← hip, ← hwrap, ← hcur, ← htrap]
  split <;> rfl

end

/-- Settles O36: one iteration by CX and by how its primitive ends; the bytes before an instruction record themselves. -/
theorem repeatStep : Obligations.RepeatStep := by
  refine ⟨fun s u w z v e hr hl p hp => ?_, fun s => ⟨rfl, rfl, rfl, fun _ => rfl⟩⟩
  obtain ⟨hi, hkeeps⟩ : exec p.1 s = stringInstr p.1 p.2.1 p.2.2 s ∧ KeepsIteration p.2.2 := by
    simp only [List.mem_cons, List.not_mem_nil, or_false] at hp
    rcases hp with rfl | rfl | rfl | rfl | rfl | rfl | rfl
    · exact ⟨rfl, .movsOnce w⟩
    · exact ⟨rfl, .cmpsOnce w⟩
    · exact ⟨rfl, .scasOnce w⟩
    · exact ⟨rfl, .lodsOnce w⟩
    · exact ⟨rfl, .stosOnce w⟩
    · exact ⟨rfl, .insOnce w⟩
    · exact ⟨rfl, .outsOnce w⟩
  refine ⟨repeated_zero hr hl hi, fun hcx hu => ⟨fun hlast => ?_, fun hlast => ?_⟩, repeated_error hr hl hi⟩
  · exact (repeated_ok hr hl hi hkeeps hcx hu).trans (if_pos hlast)
  · exact (repeated_ok hr hl hi hkeeps hcx hu).trans (if_neg hlast)

end Sys2Proof.Machine

/-! Transfers within the segment (44_control_transfer.md R330 to R333, R336, R337, R340 to R362). -/

namespace Sys2Proof.Machine

/-! The target. -/

theorem State.targetInLimit_iff (s : State) (t : Word) :
    s.targetInLimit t = true ↔ s.msw.pe = false ∨ t ≤ s.cs.limit := by simp [targetInLimit]

theorem State.targetInLimit_eq_false {s : State} {t : Word} (hpe : s.msw.pe = true) (h : s.cs.limit < t) :
    s.targetInLimit t = false := by simpa [targetInLimit, hpe] using h

/-! Words pushed. -/

theorem State.sameRegs_pushed (s : State) (words : List Word) : s.SameRegs (s.pushed words) [SP] :=
  fun r hr => ((s.writeFrame s.ss (s.reg SP) words).sameRegs_setReg SP _ r hr).trans (s.reg_writeFrame ..)

theorem State.sameMemory_pushed (s : State) (words : List Word) :
    s.SameMemory (s.pushed words) (s.pushCells words.length) := s.sameMemory_writeFrame s.ss (s.reg SP) words

theorem State.SameRegs.goTo {s t : State} {l : List Reg} (h : s.SameRegs t l) (target : Word) :
    s.SameRegs (t.goTo target) l := h

theorem State.SameMemory.goTo {s t : State} {l : List Nat} (h : s.SameMemory t l) (target : Word) :
    s.SameMemory (t.goTo target) l := h

/-! Effects that end in a transfer, and what the instruction with that effect does. -/

theorem jumpTo_ok {s : State} {t : Word} (h : s.msw.pe = false ∨ t ≤ s.cs.limit) :
    jumpTo t s = .ok () (s.transfer t) := by rw [jumpTo_eq, if_pos ((s.targetInLimit_iff t).mpr h)]

theorem callTo_ok {s : State} {t : Word} (h : s.msw.pe = false ∨ t ≤ s.cs.limit)
    (hpush : s.pushStop (s.reg SP - 2) = none) : callTo t s = .ok () ((s.pushed [s.ip]).transfer t) := by
  rw [callTo_eq t s (State.stackWraps_one hpush), if_pos ((s.targetInLimit_iff t).mpr h), hpush]
  rfl

section
variable {i : Instr} {m : M Unit} {s : State} {t : Word} (hs : s.Ready) (hi : exec i s = perform m s)
include hs hi

/-- An effect that begins with the test of a target beyond the limit. -/
theorem State.Ready.barred {f : Unit → M Unit} (hm : m s = (requireTarget t >>= f) s) (hpe : s.msw.pe = true)
    (ht : s.cs.limit < t) : Raises i s 13 (some 0) :=
  hs.raises hi (by decide) (hm.trans (bind_error (require_false (State.targetInLimit_eq_false hpe ht))))

theorem State.Ready.jumps (hm : m s = jumpTo t s) (h : s.msw.pe = false ∨ t ≤ s.cs.limit) : JumpsTo i s t :=
  hs.completes hi (hm.trans (jumpTo_ok h))

theorem State.Ready.reaches (hm : m s = jumpTo t s) :
    (s.msw.pe = false ∨ t ≤ s.cs.limit → JumpsTo i s t) ∧
      (s.msw.pe = true → s.cs.limit < t → Raises i s 13 (some 0)) :=
  ⟨hs.jumps hi hm, hs.barred hi hm⟩

theorem State.Ready.calls (hm : m s = callTo t s) (h : s.msw.pe = false ∨ t ≤ s.cs.limit)
    (hpush : s.pushStop (s.reg SP - 2) = none) :
    exec i s = .next ((s.pushed [s.ip]).goTo t) ∧ s.SameRegs ((s.pushed [s.ip]).goTo t) [SP] ∧
      s.SameMemory ((s.pushed [s.ip]).goTo t) (s.pushCells 1) :=
  ⟨hs.completes hi (hm.trans (callTo_ok h hpush)), (s.sameRegs_pushed _).goTo t, (s.sameMemory_pushed _).goTo t⟩

end

section
variable {i : Instr} {s : State} {imm : Word} (hs : s.Ready) (hi : exec i s = perform (returnNear imm) s)
  (hread : s.accessStop .ss (s.reg SP) .word false = none)
include hs hi hread

theorem State.Ready.returns_barred (hpe : s.msw.pe = true) (ht : s.cs.limit < s.load .ss (s.reg SP) .word) :
    Raises i s 13 (some 0) := by
  refine hs.raises hi (by decide) ?_
  rw [returnNear_eq, hread, State.targetInLimit_eq_false hpe ht]
  rfl

theorem State.Ready.returns (h : s.msw.pe = false ∨ s.load .ss (s.reg SP) .word ≤ s.cs.limit) :
    exec i s = .next ((s.setReg SP (s.reg SP + 2 + imm)).goTo (s.load .ss (s.reg SP) .word)) := by
  refine (hs.completes (t := (s.transfer _).setReg SP _) hi ?_).trans rfl
  rw [returnNear_eq, hread, (s.targetInLimit_iff _).mpr h]
  rfl

end

/-- Settles O37: each form is one jump, one call or one return. -/
theorem nearTransfer : Obligations.NearTransfer := by
  refine ⟨fun s hs => ⟨fun d => ?_, fun d => ?_, fun rm hrm => ?_⟩,
    fun s hs => ⟨fun d => ⟨?_, ?_⟩, fun rm hrm => ⟨?_, ?_⟩, fun hread => ⟨?_, fun n => ?_, fun h => ⟨?_, fun n => ?_⟩⟩⟩⟩
  · exact hs.reaches rfl rfl
  · exact hs.reaches rfl rfl
  · exact hs.reaches rfl (bind_ok (readRm_ok hrm))
  · exact hs.calls rfl rfl
  · exact hs.barred rfl rfl
  · exact hs.calls rfl (bind_ok (readRm_ok hrm))
  · exact hs.barred rfl (bind_ok (readRm_ok hrm))
  · exact hs.returns_barred (imm := 0) rfl hread
  · exact hs.returns_barred (imm := n) rfl hread
  · have hret := hs.returns (i := .retNear) (imm := 0) rfl hread h
    rwa [add_zero] at hret
  · exact hs.returns (imm := n) rfl hread h

/-! Conditional jumps. -/

theorem jumpIf_taken {cond : State → Bool} {s : State} (h : cond s = true) (d : Byte) :
    jumpIf cond d s = jumpTo (s.shortTarget d) s := by
  simp only [jumpIf, look_bind, h, ↓reduceIte]

theorem jumpIf_not_taken {cond : State → Bool} {s : State} (h : cond s = false) (d : Byte) :
    jumpIf cond d s = .ok () s := by
  simp only [jumpIf, look_bind, h, Bool.false_eq_true, ↓reduceIte, pure_apply]

/-- The three ways a conditional jump can end. -/
theorem State.Ready.jumpIf_cases {i : Instr} {cond : State → Bool} {d : Byte} {s : State} (hs : s.Ready)
    (hi : exec i s = perform (jumpIf cond d) s) :
    (cond s = true → s.msw.pe = false ∨ s.ip + signExtend16 d ≤ s.cs.limit → JumpsTo i s (s.ip + signExtend16 d)) ∧
    (cond s = true → s.msw.pe = true → s.cs.limit < s.ip + signExtend16 d → Raises i s 13 (some 0)) ∧
    (cond s = false → DoesNothing i s) :=
  ⟨fun h => hs.jumps hi (jumpIf_taken h d), fun h => hs.barred hi (jumpIf_taken h d),
    fun h => hs.completes hi (jumpIf_not_taken h d)⟩

/-! Loops. -/

/-- The condition under which `loopIf` jumps: CX less 1 is not 0, and the condition of the instruction holds. -/
theorem loop_taken_iff (s : State) (c : Bool) : (s.reg CX - 1 != 0 && c) = true ↔ c = true ∧ s.reg CX ≠ 1 := by
  rw [Bool.and_eq_true, bne_iff_ne, and_comm, ne_eq, sub_eq_zero]

section
variable {i : Instr} {cond : State → Bool} {d : Byte} {s : State} (hs : s.Ready)
  (hi : exec i s = perform (loopIf cond d) s)
include hs hi

/-- A jump that CX or the condition bars leaves CX less 1. -/
theorem State.Ready.loop_ends (h : ¬(cond s = true ∧ s.reg CX ≠ 1)) :
    exec i s = .next (s.setReg CX (s.reg CX - 1)).endInstruction := by
  rw [← loop_taken_iff, Bool.not_eq_true] at h
  exact hs.completes hi (bind_ok (jumpIf_not_taken h d))

theorem State.Ready.loop_jumps (h : cond s = true ∧ s.reg CX ≠ 1)
    (ht : s.msw.pe = false ∨ s.shortTarget d ≤ s.cs.limit) :
    exec i s = .next ((s.setReg CX (s.reg CX - 1)).goTo (s.shortTarget d)) :=
  hs.completes hi (bind_ok ((jumpIf_taken ((loop_taken_iff s _).mpr h) d).trans (jumpTo_ok ht)))

theorem State.Ready.loop_barred (h : cond s = true ∧ s.reg CX ≠ 1) (hpe : s.msw.pe = true)
    (ht : s.cs.limit < s.shortTarget d) : Raises i s 13 (some 0) :=
  hs.raises hi (by decide) (bind_error ((jumpIf_taken ((loop_taken_iff s _).mpr h) d).trans
    (bind_error (require_false (State.targetInLimit_eq_false hpe ht)))))

end

/-- Settles O38: every conditional jump is `jumpIf` of its condition, every loop `loopIf`. -/
theorem conditionalJumps : Obligations.ConditionalJumps := by
  refine ⟨fun s d hs p hp => ?_, fun s d hs p hp => ?_⟩
  · obtain ⟨cond, hi, hc⟩ : ∃ cond, exec p.1 s = perform (jumpIf cond d) s ∧ cond s = p.2 := by
      simp only [List.mem_cons, List.not_mem_nil, or_false] at hp
      rcases hp with rfl | rfl | rfl | rfl | rfl | rfl | rfl | rfl | rfl | rfl | rfl | rfl | rfl | rfl | rfl | rfl |
        rfl <;> exact ⟨_, rfl, rfl⟩
    rw [← hc]
    exact hs.jumpIf_cases hi
  · obtain ⟨cond, hi, hc⟩ : ∃ cond, exec p.1 s = perform (loopIf cond d) s ∧ cond s = p.2 := by
      simp only [List.mem_cons, List.not_mem_nil, or_false] at hp
      rcases hp with rfl | rfl | rfl
      · exact ⟨fun _ => true, rfl, rfl⟩
      · exact ⟨fun s => s.flags.zf, rfl, rfl⟩
      · exact ⟨fun s => !s.flags.zf, rfl, rfl⟩
    rw [← hc]
    exact ⟨hs.loop_ends hi, hs.loop_jumps hi, hs.loop_barred hi⟩

end Sys2Proof.Machine

/-! Intersegment transfers in real mode (44_control_transfer.md R334, R335, R338, R339, R363, R364). -/

namespace Sys2Proof.Machine

/-! The stack in real mode: only a word at offset 0xFFFF may not be accessed. -/

theorem State.readable_real {s : State} (h : s.msw.pe = false) {r : SReg} {off : Word} (hoff : off ≠ 0xFFFF) :
    s.accessStop r off .word false = none := by
  rw [accessStop_real h, if_neg fun e => hoff e.2]

theorem State.pushStop_real {s : State} (h : s.msw.pe = false) {t : Word} (ht : t ≠ 0xFFFF) : s.pushStop t = none := by
  rw [pushStop, if_neg (by simpa [h] using ht), accessStop_real h, if_neg fun e => ht e.2]

/-- A word read from the stack of real mode. -/
theorem readStack_ok {s : State} (h : s.msw.pe = false) {f : State → Word} (hoff : f s ≠ 0xFFFF) :
    (do segRead .ss (← look f) .word : M Word) s = .ok (s.load .ss (f s) .word) s :=
  segRead_ok (State.readable_real h hoff)

/-- Pushes wrap at an odd SP below twice their number. -/
theorem State.stackWraps_eq_false {s : State} {count : Nat} (h : ∀ k < count, s.reg SP ≠ BitVec.ofNat 16 (2 * k + 1)) :
    s.stackWraps count = false := by
  by_contra hw
  simp only [stackWraps, Bool.not_eq_false, Bool.and_eq_true, Bool.not_eq_true', beq_iff_eq, decide_eq_true_eq] at hw
  obtain ⟨⟨-, hodd⟩, hlt⟩ := hw
  refine h _ hlt (BitVec.eq_of_toNat_eq ?_)
  have := (s.reg SP).isLt
  rw [BitVec.toNat_ofNat, Nat.mod_eq_of_lt (by omega)]
  omega

/-! Words pushed one after another are words pushed at once. -/

theorem State.setReg_setReg (s : State) (r : Reg) (u v : Word) : (s.setReg r u).setReg r v = s.setReg r v := by
  simp [setReg]

theorem State.setReg_self (s : State) (r : Reg) : s.setReg r (s.reg r) = s := by simp [setReg, reg]

theorem State.writeFrame_setReg (s : State) (r : Reg) (u : Word) (g : SegReg) (sp : Word) (words : List Word) :
    (s.setReg r u).writeFrame g sp words = (s.writeFrame g sp words).setReg r u := by
  induction words generalizing s sp with
  | nil => rfl
  | cons v rest ih => exact ih (s.storeVia g (sp - 2) .word v) (sp - 2)

theorem State.pushed_pushed (s : State) (v w : Word) : (s.pushed [v]).pushed [w] = s.pushed [v, w] := by
  have hsp : (s.pushed [v]).reg SP = s.reg SP - 2 := setReg_reg _ SP _
  have hss : (s.pushed [v]).ss = s.ss := by simp [pushed]
  rw [pushed, hsp, hss, pushed, writeFrame_setReg, setReg_setReg, sub_sub]
  rfl

theorem push16_ok {s : State} (h : s.pushStop (s.reg SP - 2) = none) (v : Word) :
    push16 v s = .ok () (s.pushed [v]) := by
  rw [push16_eq, h]
  rfl

/-! The far transfers. -/

/-- Execution goes on at `sel:off` in real mode. -/
def State.goFar (s : State) (off sel : Word) : State := { s.goTo off with cs := realSegment sel }

theorem State.endInstruction_farTransfer (s : State) (off sel : Word) :
    (({ s with cs := realSegReg sel } : State).transfer off).endInstruction = s.goFar off sel := by
  rw [realSegReg_eq]
  rfl

section
variable {s : State} (hpe : s.msw.pe = false) (off sel : Word)
include hpe

theorem jumpFar_real : jumpFar off sel s = .ok () (({ s with cs := realSegReg sel } : State).transfer off) := by
  simp only [jumpFar, look_bind, hpe, Bool.false_eq_true, ↓reduceIte, update_apply]

theorem callFar_real (h1 : s.reg SP ≠ 1) (h3 : s.reg SP ≠ 3) :
    callFar off sel s =
      .ok () (({ s.pushed [s.cs.sel, s.ip] with cs := realSegReg sel } : State).transfer off) := by
  have hwraps : s.stackWraps 2 = false := by
    refine State.stackWraps_eq_false fun k hk => ?_
    interval_cases k
    · exact h1
    · exact h3
  have hfirst : s.pushStop (s.reg SP - 2) = none := State.pushStop_real hpe (mt sub_eq_iff_eq_add.mp h1)
  have hsp : (s.pushed [s.cs.sel]).reg SP = s.reg SP - 2 := State.setReg_reg _ SP _
  have hsecond : (s.pushed [s.cs.sel]).pushStop ((s.pushed [s.cs.sel]).reg SP - 2) = none := by
    rw [hsp]
    exact State.pushStop_real (by simpa [State.pushed] using hpe) (mt sub_eq_iff_eq_add.mp (mt sub_eq_iff_eq_add.mp h3))
  have hip : (s.pushed [s.cs.sel]).ip = s.ip := by simp [State.pushed]
  simp only [callFar, look_bind, hpe, Bool.false_eq_true, ↓reduceIte, callFarReal]
  rw [bind_ok (requireStack_eq hwraps), look_bind, bind_ok (push16_ok hfirst _), look_bind, hip,
    bind_ok (push16_ok hsecond _), State.pushed_pushed, update_apply]

theorem returnFar_real (hoff : s.reg SP ≠ 0xFFFF) (hsel : s.reg SP ≠ 0xFFFD) (imm : Word) :
    returnFar imm s = .ok () ((({ s with cs := realSegReg (s.load .ss (s.reg SP + 2) .word) } : State).transfer
      (s.load .ss (s.reg SP) .word)).setReg SP (s.reg SP + 4 + imm)) := by
  rw [returnFar, bind_ok (readStack_ok hpe hoff), bind_ok (readStack_ok hpe (mt eq_sub_of_add_eq hsel))]
  simp only [look_bind, hpe, Bool.false_eq_true, ↓reduceIte, update_apply]

end

section
variable {s : State} (hs : s.Ready) (hpe : s.msw.pe = false)
include hs hpe

theorem State.Ready.jumpsFar {i : Instr} {m : M Unit} {off sel : Word} (hi : exec i s = perform m s)
    (hm : m s = jumpFar off sel s) : exec i s = .next (s.goFar off sel) := by
  rw [hs.completes hi (hm.trans (jumpFar_real hpe off sel)), State.endInstruction_farTransfer]

theorem State.Ready.callsFar {i : Instr} {m : M Unit} {off sel : Word} (hi : exec i s = perform m s)
    (hm : m s = callFar off sel s) (h1 : s.reg SP ≠ 1) (h3 : s.reg SP ≠ 3) :
    exec i s = .next ((s.pushed [s.cs.sel, s.ip]).goFar off sel) := by
  rw [hs.completes hi (hm.trans (callFar_real hpe off sel h1 h3)), State.endInstruction_farTransfer]

theorem State.Ready.returnsFar {i : Instr} {imm : Word} (hi : exec i s = perform (returnFar imm) s)
    (hoff : s.reg SP ≠ 0xFFFF) (hsel : s.reg SP ≠ 0xFFFD) :
    exec i s = .next ((s.setReg SP (s.reg SP + 4 + imm)).goFar (s.load .ss (s.reg SP) .word)
      (s.load .ss (s.reg SP + 2) .word)) := by
  rw [hs.completes hi (returnFar_real hpe hoff hsel imm), realSegReg_eq]
  rfl

end

/-- The two words CALL pushes, in the words of the statement. -/
theorem State.pushed_pair (s : State) (v w : Word) :
    s.pushed [v, w] =
      ((s.store .ss (s.reg SP - 2) .word v).store .ss (s.reg SP - 4) .word w).setReg SP (s.reg SP - 4) := by
  have hsp : s.reg SP - 2 - 2 = s.reg SP - 4 := sub_sub ..
  simp only [pushed, writeFrame, hsp]
  rfl

/-- Settles O39: each form is one far jump, one far call or one far return. -/
theorem farTransferReal : Obligations.FarTransferReal := by
  intro s hs hpe
  refine ⟨fun off sel => ?_, fun m hm => ?_, fun h1 h3 => ?_, fun hoff hsel => ⟨?_, fun n => ?_⟩⟩
  · exact hs.jumpsFar hpe rfl rfl
  · exact hs.jumpsFar hpe rfl (by rw [bind_ok (readPointer_ok hm)])
  · rw [← State.pushed_pair]
    refine ⟨fun off sel => ?_, fun m hm => ?_, s.sameMemory_pushed [s.cs.sel, s.ip]⟩
    · exact hs.callsFar hpe rfl rfl h1 h3
    · exact hs.callsFar hpe rfl (by rw [bind_ok (readPointer_ok hm)]) h1 h3
  · have hret := hs.returnsFar (i := .retFar) (imm := 0) hpe rfl hoff hsel
    rwa [add_zero] at hret
  · exact hs.returnsFar hpe rfl hoff hsel

end Sys2Proof.Machine

/-! ENTER, LEAVE and BOUND (44_control_transfer.md R365 to R367). -/

namespace Sys2Proof.Machine

/-! The pushes of ENTER write one frame: the old BP, the frame pointers copied, and the new one. -/

theorem State.writeFrame_concat (s : State) (g : SegReg) (sp : Word) (words : List Word) (v : Word) :
    s.writeFrame g sp (words ++ [v]) =
      (s.writeFrame g sp words).storeVia g (sp - BitVec.ofNat 16 (2 * words.length + 2)) .word v := by
  induction words generalizing s sp with
  | nil => rfl
  | cons u rest ih =>
    rw [List.length_cons, ← frameOffset_succ]
    exact ih (s.storeVia g (sp - 2) .word u) (sp - 2)

theorem State.exists_copiedFrames_eq_writeFrame (s : State) (bp sp : Word) (count : Nat) :
    ∃ words, words.length = count ∧ s.copiedFrames bp sp count = s.writeFrame s.ss sp words := by
  induction count generalizing s bp sp with
  | zero => exact ⟨[], rfl, rfl⟩
  | succ k ih =>
    obtain ⟨words, hlen, heq⟩ := ih (s.store .ss (sp - 2) .word (s.load .ss (bp - 2) .word)) (bp - 2) (sp - 2)
    exact ⟨s.load .ss (bp - 2) .word :: words, congrArg (· + 1) hlen, heq⟩

theorem State.exists_enterFrame_eq_writeFrame (s : State) (level : Nat) :
    ∃ words, words.length = level + 1 ∧ s.enterFrame level = s.writeFrame s.ss (s.reg SP) words := by
  cases level with
  | zero => exact ⟨[s.reg BP], rfl, rfl⟩
  | succ k =>
    obtain ⟨words, rfl, heq⟩ :=
      (s.store .ss (s.reg SP - 2) .word (s.reg BP)).exists_copiedFrames_eq_writeFrame (s.reg BP) (s.reg SP - 2) k
    refine ⟨s.reg BP :: (words ++ [s.reg SP - 2]), by simp, ?_⟩
    rw [writeFrame, writeFrame_concat, enterFrame, heq, store, seg_writeFrame]
    rfl

theorem State.reg_enterFrame (s : State) (level : Nat) (r : Reg) : (s.enterFrame level).reg r = s.reg r := by
  obtain ⟨words, -, heq⟩ := s.exists_enterFrame_eq_writeFrame level
  rw [heq, reg_writeFrame]

theorem State.sameMemory_enterFrame (s : State) (level : Nat) :
    s.SameMemory (s.enterFrame level) (s.pushCells (level + 1)) := by
  obtain ⟨words, hlen, heq⟩ := s.exists_enterFrame_eq_writeFrame level
  rw [heq, ← hlen]
  exact s.sameMemory_writeFrame s.ss (s.reg SP) words

/-! The accesses of ENTER, whose tests look at nothing the pushes write. -/

theorem State.accessStop_store (s : State) (q : SReg) (o : Word) (v : Word) (r : SReg) (off : Word) (w : Width)
    (write : Bool) : (s.store q o .word v).accessStop r off w write = s.accessStop r off w write := by
  cases r <;> rfl

theorem State.pushStop_store (s : State) (q : SReg) (o : Word) (v t : Word) :
    (s.store q o .word v).pushStop t = s.pushStop t := rfl

/-- Why the frame pointer below `k` others may not be read. -/
def State.copyStop (s : State) (bp : Word) (k : Nat) : Option Stop :=
  s.accessStop .ss (bp - BitVec.ofNat 16 (2 * k + 2)) .word false

/-- Why the word below `k` others may not be pushed. -/
def State.slotStop (s : State) (sp : Word) (k : Nat) : Option Stop := s.pushStop (sp - BitVec.ofNat 16 (2 * k + 2))

theorem State.copyStop_below (s : State) (o v bp : Word) (k : Nat) :
    (s.store .ss o .word v).copyStop (bp - 2) k = s.copyStop bp (k + 1) := by
  rw [copyStop, accessStop_store, frameOffset_succ, copyStop]

theorem State.slotStop_below (s : State) (o v sp : Word) (k : Nat) :
    (s.store .ss o .word v).slotStop (sp - 2) k = s.slotStop sp (k + 1) := by
  rw [slotStop, pushStop_store, frameOffset_succ, slotStop]

theorem pushAt_ok {s : State} {t : Word} (h : s.pushStop t = none) (v : Word) :
    pushAt t v s = .ok () (s.store .ss t .word v) := bind_ok (check_none h)

theorem pushAt_error {s : State} {t : Word} {e : Stop} (h : s.pushStop t = some e) (v : Word) :
    pushAt t v s = .error e s := bind_error (check_some h)

/-- One frame pointer copied, and the rest of them from below it. -/
theorem enterLevels_succ {s : State} {bp sp : Word} (hcopy : s.copyStop bp 0 = none) (hpush : s.slotStop sp 0 = none)
    (count : Nat) :
    enterLevels (count + 1) bp sp s =
      enterLevels count (bp - 2) (sp - 2) (s.store .ss (sp - 2) .word (s.load .ss (bp - 2) .word)) :=
  (bind_ok (segRead_ok hcopy)).trans (bind_ok (pushAt_ok hpush _))

theorem belowFrame_succ (sp : Word) (n : Nat) :
    sp - 2 - BitVec.ofNat 16 (2 * n) = sp - BitVec.ofNat 16 (2 * (n + 1)) := by
  rw [sub_sub, Nat.mul_succ, BitVec.ofNat_add, add_comm]
  rfl

theorem enterLevels_ok {s : State} {bp sp : Word} {count : Nat} (hcopy : ∀ k < count, s.copyStop bp k = none)
    (hpush : ∀ k < count, s.slotStop sp k = none) :
    enterLevels count bp sp s = .ok (sp - BitVec.ofNat 16 (2 * count)) (s.copiedFrames bp sp count) := by
  induction count generalizing s bp sp with
  | zero => rw [Nat.mul_zero, BitVec.sub_zero]; rfl
  | succ n ih =>
    rw [enterLevels_succ (hcopy 0 n.succ_pos) (hpush 0 n.succ_pos), ih, belowFrame_succ, State.copiedFrames]
    · exact fun k hk => (State.copyStop_below ..).trans (hcopy (k + 1) (Nat.succ_lt_succ hk))
    · exact fun k hk => (State.slotStop_below ..).trans (hpush (k + 1) (Nat.succ_lt_succ hk))

/-- The first access that stops ends the copying. -/
theorem enterLevels_error {s : State} {bp sp : Word} {j count : Nat} {e : Stop} (hj : j < count)
    (hcopy : ∀ k < j, s.copyStop bp k = none) (hpush : ∀ k < j, s.slotStop sp k = none)
    (h : s.copyStop bp j = some e ∨ s.copyStop bp j = none ∧ s.slotStop sp j = some e) :
    ∃ t, enterLevels count bp sp s = .error e t := by
  induction count generalizing s bp sp j with
  | zero => exact absurd hj j.not_lt_zero
  | succ n ih =>
    cases j with
    | zero =>
      rcases h with h | ⟨hread, h⟩
      · exact ⟨s, bind_error (segRead_error h)⟩
      · exact ⟨s, (bind_ok (segRead_ok hread)).trans (bind_error (pushAt_error h _))⟩
    | succ j =>
      rw [enterLevels_succ (hcopy 0 j.succ_pos) (hpush 0 j.succ_pos)]
      refine ih (Nat.lt_of_succ_lt_succ hj) (fun k hk => ?_) (fun k hk => ?_) ?_
      · exact (State.copyStop_below ..).trans (hcopy (k + 1) (Nat.succ_lt_succ hk))
      · exact (State.slotStop_below ..).trans (hpush (k + 1) (Nat.succ_lt_succ hk))
      · rwa [State.copyStop_below, State.slotStop_below]

/-! The pushes of ENTER: slot 0 holds the old BP, the slots from 1 on what `enterFrames` pushes. -/

section
variable {s : State} {l : Nat}

theorem enterPushes_zero (h : s.slotStop (s.reg SP) 0 = none) :
    enterPushes 0 (s.reg BP) (s.reg SP - 2) s = .ok (s.reg SP - 2) (s.enterFrame 0) := bind_ok (pushAt_ok h _)

/-- The state in which ENTER has pushed the old BP. -/
def State.savedBp (s : State) : State := s.store .ss (s.reg SP - 2) .word (s.reg BP)

theorem enterPushes_succ (h : s.slotStop (s.reg SP) 0 = none) (n : Nat) :
    enterPushes (n + 1) (s.reg BP) (s.reg SP - 2) s =
      (do let sp ← enterLevels n (s.reg BP) (s.reg SP - 2); pushAt (sp - 2) (s.reg SP - 2); pure (sp - 2) : M Word)
        s.savedBp := bind_ok (pushAt_ok h _)

theorem State.copyStop_savedBp (s : State) (bp : Word) (k : Nat) : s.savedBp.copyStop bp k = s.copyStop bp k :=
  accessStop_store ..

theorem State.slotStop_savedBp (s : State) (k : Nat) :
    s.savedBp.slotStop (s.reg SP - 2) k = s.slotStop (s.reg SP) (k + 1) := slotStop_below ..

theorem State.pushStop_copiedFrames (s : State) (bp sp t : Word) (count : Nat) :
    (s.copiedFrames bp sp count).pushStop t = s.pushStop t := by
  induction count generalizing s bp sp with
  | zero => rfl
  | succ k ih => exact ih ..

theorem frame_sub_two (sp : Word) (n : Nat) : sp - BitVec.ofNat 16 (2 * n) - 2 = sp - BitVec.ofNat 16 (2 * n + 2) := by
  rw [sub_sub, BitVec.ofNat_add]
  rfl

/-- Where the tests pass the old BP is saved and `n` frame pointers are copied. -/
theorem enterLevels_savedBp_ok {n : Nat} (hpush : ∀ k < n, s.slotStop (s.reg SP) (k + 1) = none)
    (hcopy : ∀ k < n, s.copyStop (s.reg BP) k = none) :
    enterLevels n (s.reg BP) (s.reg SP - 2) s.savedBp =
      .ok (s.reg SP - 2 - BitVec.ofNat 16 (2 * n)) (s.savedBp.copiedFrames (s.reg BP) (s.reg SP - 2) n) :=
  enterLevels_ok (fun k hk => (s.copyStop_savedBp _ k).trans (hcopy k hk))
    (fun k hk => (s.slotStop_savedBp k).trans (hpush k hk))

/-- The test of the last push, after the copies. -/
theorem State.pushStop_last (s : State) (n : Nat) :
    (s.savedBp.copiedFrames (s.reg BP) (s.reg SP - 2) n).pushStop (s.reg SP - 2 - BitVec.ofNat 16 (2 * n) - 2) =
      s.slotStop (s.reg SP) (n + 1) := by
  rw [pushStop_copiedFrames, frame_sub_two]
  exact s.slotStop_savedBp n

theorem enterPushes_ok (hpush : ∀ k ≤ l, s.slotStop (s.reg SP) k = none)
    (hcopy : ∀ k, k + 1 < l → s.copyStop (s.reg BP) k = none) :
    enterPushes l (s.reg BP) (s.reg SP - 2) s = .ok (s.reg SP - 2 - BitVec.ofNat 16 (2 * l)) (s.enterFrame l) := by
  have hfirst := hpush 0 l.zero_le
  cases l with
  | zero =>
    rw [Nat.mul_zero, BitVec.sub_zero]
    exact enterPushes_zero hfirst
  | succ n =>
    have hlast := (s.pushStop_last n).trans (hpush (n + 1) le_rfl)
    rw [enterPushes_succ hfirst,
      bind_ok (enterLevels_savedBp_ok (fun k hk => hpush (k + 1) (by omega)) fun k hk => hcopy k (by omega)),
      bind_ok (pushAt_ok hlast _), frame_sub_two]
    rfl

theorem enterPushes_error_zero {e : Stop} (h : s.slotStop (s.reg SP) 0 = some e) :
    enterPushes l (s.reg BP) (s.reg SP - 2) s = .error e s := bind_error (pushAt_error h _)

/-- The first access after the push of BP that stops ends the pushes. -/
theorem enterPushes_error_succ {j : Nat} {e : Stop} (hj : j < l) (hpush : ∀ k ≤ j, s.slotStop (s.reg SP) k = none)
    (hcopy : ∀ k < j, s.copyStop (s.reg BP) k = none)
    (h : (j + 1 < l ∧ s.copyStop (s.reg BP) j = some e) ∨
      (j + 1 < l → s.copyStop (s.reg BP) j = none) ∧ s.slotStop (s.reg SP) (j + 1) = some e) :
    ∃ t, enterPushes l (s.reg BP) (s.reg SP - 2) s = .error e t := by
  obtain ⟨n, rfl⟩ : ∃ n, l = n + 1 := Nat.exists_eq_succ_of_ne_zero (Nat.ne_zero_of_lt hj)
  have hslots : ∀ k < j, s.slotStop (s.reg SP) (k + 1) = none := fun k hk => hpush (k + 1) hk
  rw [enterPushes_succ (hpush 0 j.zero_le)]
  rcases Nat.lt_succ_iff_lt_or_eq.mp hj with hlt | rfl
  · have hcopied : s.copyStop (s.reg BP) j = some e ∨
        s.copyStop (s.reg BP) j = none ∧ s.slotStop (s.reg SP) (j + 1) = some e :=
      h.imp And.right fun ⟨hread, hwrite⟩ => ⟨hread (Nat.succ_lt_succ hlt), hwrite⟩
    rw [← s.copyStop_savedBp, ← s.slotStop_savedBp] at hcopied
    obtain ⟨t, ht⟩ := enterLevels_error hlt (fun k hk => (s.copyStop_savedBp _ k).trans (hcopy k hk))
      (fun k hk => (s.slotStop_savedBp k).trans (hslots k hk)) hcopied
    exact ⟨t, bind_error ht⟩
  · rcases h with ⟨hlt, -⟩ | ⟨-, hwrite⟩
    · exact absurd hlt (lt_irrefl _)
    · rw [bind_ok (enterLevels_savedBp_ok hslots hcopy)]
      exact ⟨_, bind_error (pushAt_error ((s.pushStop_last j).trans hwrite) _)⟩

end

/-! The instructions. -/

/-- The test of BOUND. -/
theorem inBounds_iff {lo hi x : Word} :
    (lo.sle x && x.sle hi) = true ↔ lo.toInt ≤ x.toInt ∧ x.toInt ≤ hi.toInt := by
  rw [Bool.and_eq_true, BitVec.sle_iff_toInt_le, BitVec.sle_iff_toInt_le]

section
variable {s : State} (hs : s.Ready) {size : Word} {level : Byte}
include hs

theorem State.Ready.enter_raises {v : Byte} {e : Option Word} (hv : v ≠ 16)
    (h : ∃ t, enterPushes (level.toNat % 32) (s.reg BP) (s.reg SP - 2) s = .error (.exc v e) t) :
    Raises (.enter size level) s v e := by
  obtain ⟨t, ht⟩ := h
  exact hs.raises rfl hv (bind_error (allOrNone_exc ht))

theorem State.Ready.enters {l : Nat} (hl : level.toNat % 32 = l)
    (h : enterPushes l (s.reg BP) (s.reg SP - 2) s =
      .ok (s.reg SP - 2 - BitVec.ofNat 16 (2 * l)) (s.enterFrame l)) :
    exec (.enter size level) s = .next (State.endInstruction (((s.enterFrame l).setReg BP (s.reg SP - 2)).setReg SP
      (s.reg SP - 2 - BitVec.ofNat 16 (2 * l) - size))) := by
  subst hl
  exact hs.completes rfl (bind_ok (allOrNone_ok h))

theorem State.Ready.bound_completes {r : Reg} {m : MemOp} (hm : s.wordsStop m 2 false = none)
    (h : ((s.memValue m 0 .word).sle (s.reg r) && (s.reg r).sle (s.memValue m 2 .word)) = true) :
    DoesNothing (.bound r m) s := hs.completes rfl ((bind_ok (readPointer_ok hm)).trans (require_true h))

theorem State.Ready.bound_raises {r : Reg} {m : MemOp} (hm : s.wordsStop m 2 false = none)
    (h : ((s.memValue m 0 .word).sle (s.reg r) && (s.reg r).sle (s.memValue m 2 .word)) = false) :
    Raises (.bound r m) s 5 none :=
  hs.raises rfl (by decide) ((bind_ok (readPointer_ok hm)).trans (require_false h))

end

/-- Settles O42: the pushes of ENTER by the first access that stops, LEAVE and BOUND by their one test. -/
theorem enterLeaveBound : Obligations.EnterLeaveBound := by
  refine ⟨fun s hs => ⟨fun size level => ⟨fun j v e hj hpush => ⟨fun h hcopy => ?_, fun h hpos hlt hcopy => ?_⟩,
    fun hpush hcopy => ?_⟩, fun h => ?_⟩, fun s r m hs hm => ⟨fun hlo hhi => ?_, fun hout => ?_⟩⟩
  · refine hs.enter_raises (State.pushStop_exc h) ?_
    cases j with
    | zero => exact ⟨s, enterPushes_error_zero h⟩
    | succ j =>
      exact enterPushes_error_succ hj (fun k hk => hpush k (Nat.lt_succ_of_le hk))
        (fun k hk => hcopy (k + 1) k.succ_pos (by omega) (by omega))
        (.inr ⟨fun hlt => hcopy (j + 1) j.succ_pos hlt le_rfl, h⟩)
  · refine hs.enter_raises (State.accessStop_exc h) ?_
    obtain ⟨j, rfl⟩ := Nat.exists_eq_succ_of_ne_zero hpos.ne'
    exact enterPushes_error_succ hj (fun k hk => hpush k (Nat.lt_succ_of_le hk))
      (fun k hk => hcopy (k + 1) k.succ_pos (Nat.succ_lt_succ hk)) (.inl ⟨hlt, h⟩)
  · refine ⟨hs.enters rfl (enterPushes_ok (fun k hk => hpush k hk) fun k hk => hcopy (k + 1) k.succ_pos hk),
      fun r hr => ?_, s.sameMemory_enterFrame _⟩
    simp only [List.mem_cons, List.not_mem_nil, or_false, not_or] at hr
    obtain ⟨hsp, hbp⟩ := hr
    exact (State.setReg_reg_ne _ _ hsp).trans ((State.setReg_reg_ne _ _ hbp).trans (s.reg_enterFrame _ r))
  · exact hs.completes rfl (bind_ok (segRead_ok h))
  · exact hs.bound_completes hm (inBounds_iff.mpr ⟨hlo, hhi⟩)
  · refine hs.bound_raises hm ?_
    rw [← Bool.not_eq_true, inBounds_iff]
    omega

end Sys2Proof.Machine

/-! INT n and IRET in real mode (44_control_transfer.md R368, R371, 60_exceptions.md R520). -/

namespace Sys2Proof.Machine

/-! IRET. -/

theorem Flags.loadReal_eq {s : State} (h : s.msw.pe = false) (v : Word) : Flags.loadReal v = s.poppedFlags v := by
  rw [← s.loadFlags_eq, State.loadFlags, if_neg (by simp [h])]

theorem returnFromInterrupt_real {s : State} (hpe : s.msw.pe = false) (hoff : s.reg SP ≠ 0xFFFF)
    (hsel : s.reg SP ≠ 0xFFFD) (hflags : s.reg SP ≠ 0xFFFB) :
    returnFromInterrupt s =
      .ok () { (({ s with cs := realSegReg (s.load .ss (s.reg SP + 2) .word) } : State).transfer
        (s.load .ss (s.reg SP) .word)).setReg SP (s.reg SP + 6) with
        flags := Flags.loadReal (s.load .ss (s.reg SP + 4) .word), nmiInService := false } := by
  simp only [returnFromInterrupt, look_bind, hpe, Bool.not_false, ↓reduceIte, returnReal]
  rw [bind_ok (readStack_ok hpe hoff), bind_ok (readStack_ok hpe (mt eq_sub_of_add_eq hsel)),
    bind_ok (readStack_ok hpe (mt eq_sub_of_add_eq hflags)), update_apply]

/-- The state in which IRET completes in real mode. -/
def State.returnedReal (s : State) (off sel f : Word) : State :=
  { (s.setReg SP (s.reg SP + 6)).goTo off with
    cs := realSegment sel, flags := s.poppedFlags f, nmiInService := false }

theorem State.Ready.interruptReturns {s : State} (hs : s.Ready) (hpe : s.msw.pe = false) (hoff : s.reg SP ≠ 0xFFFF)
    (hsel : s.reg SP ≠ 0xFFFD) (hflags : s.reg SP ≠ 0xFFFB) :
    exec .iret s = .next (s.returnedReal (s.load .ss (s.reg SP) .word) (s.load .ss (s.reg SP + 2) .word)
      (s.load .ss (s.reg SP + 4) .word)) := by
  rw [hs.completes rfl (returnFromInterrupt_real hpe hoff hsel hflags), realSegReg_eq, Flags.loadReal_eq hpe]
  rfl

/-! INT n. -/

theorem State.vectorAddr_eq (s : State) (v : Byte) :
    s.vectorAddr v = s.idtr.base + BitVec.ofNat 24 (4 * v.toNat) := by
  rw [vectorAddr]
  congr 1
  bv_omega

/-- A handler of real mode begins: CS:IP and FLAGS are set and the queues discarded. -/
def State.handlerAt (s : State) (f : Flags) (sel off : Word) : State :=
  { s.goTo off with flags := f, cs := realSegment sel }

theorem State.endInstruction_handler (s : State) (f : Flags) (sel off : Word) :
    (({ s with flags := f, cs := realSegReg sel } : State).transfer off).endInstruction = s.handlerAt f sel off := by
  rw [realSegReg_eq]
  rfl

/-- The state in which an entry in real mode has pushed its frame. -/
def State.framed (s : State) (rip : Word) : State := s.pushed [s.flags.image, s.cs.sel, rip]

theorem State.realEntry_eq (s : State) (v : Byte) (rip : Word) :
    s.realEntry v rip = (s.framed rip).handlerAt s.flags.enterReal ((s.framed rip).readWord (s.vectorAddr v + 2))
      ((s.framed rip).readWord (s.vectorAddr v)) := by
  rw [vectorAddr_eq]
  rfl

theorem enterVector_ok {s : State} {v : Byte} (h : s.canEnterReal v) (rip : Word) :
    enterVector v rip s = .ok () (({ s.framed rip with
      flags := s.flags.enterReal
      cs := realSegReg ((s.framed rip).readWord (s.vectorAddr v + 2)) } : State).transfer
        ((s.framed rip).readWord (s.vectorAddr v))) := by
  obtain ⟨-, -, htop, h1, h3, h5⟩ := h
  have hwraps : s.stackWraps 3 = false := by
    refine State.stackWraps_eq_false fun k hk => ?_
    interval_cases k
    · exact h1
    · exact h3
    · exact h5
  rw [← s.vectorAddr_eq] at htop
  rw [enterVector, bind_ok (requireStack_eq hwraps), bind_ok (require_true (by simp [htop])), update_apply]
  rfl

theorem softwareInterrupt_real {s : State} {v : Byte} (h : s.canEnterReal v) :
    softwareInterrupt v s = enterVector v s.ip s := by
  rw [softwareInterrupt, look_bind, enter_real h.1, enterReal, look_bind, if_pos h.2.1]

theorem State.Ready.entersReal {s : State} (hs : s.Ready) {v : Byte} (h : s.canEnterReal v) :
    exec (.intN v) s = .next (s.realEntry v s.ip) := by
  rw [hs.completes (i := .intN v) rfl ((softwareInterrupt_real h).trans (enterVector_ok h s.ip)),
    State.endInstruction_handler, State.realEntry_eq]

/-! IRET after INT n. -/

/-- An image of FLAGS with IOPL and NT 0 holds all of it. -/
theorem Flags.loadReal_image {f : Flags} (hiopl : f.iopl = 0) (hnt : f.nt = false) : Flags.loadReal f.image = f := by
  obtain ⟨cf, pf, af, zf, sf, tf, ie, df, ovf, iopl, nt⟩ := f
  subst hiopl hnt
  revert cf pf af zf sf tf ie df ovf
  decide +kernel

/-- A word pushed into RAM reads back. -/
theorem State.load_pushed {s : State} (hm : Memory.wf s.mem = true) {words : List Word} (hlen : words.length ≤ 2 ^ 15)
    (hram : ∀ a ∈ s.pushCells words.length, s.isRam a = true) (k : Nat) (hk : k < words.length) :
    (s.pushed words).load .ss (s.reg SP - BitVec.ofNat 16 (2 * k + 2)) .word = words[k] := by
  have hss : (s.pushed words).seg .ss = s.ss := by simp [pushed, seg]
  rw [load, hss]
  exact loadVia_writeFrame hm s.ss (s.reg SP) words hlen hram k hk

section
variable (s : State) (f : Flags) (sel off : Word)

theorem State.handlerAt_load (o : Word) : (s.handlerAt f sel off).load .ss o .word = s.load .ss o .word := rfl

theorem State.handlerAt_reg (r : Reg) : (s.handlerAt f sel off).reg r = s.reg r := rfl

theorem State.handlerAt_ready : (s.handlerAt f sel off).Ready := ⟨rfl, rfl⟩

theorem State.handlerAt_msw : (s.handlerAt f sel off).msw = s.msw := rfl

end

theorem State.framed_msw (s : State) (rip : Word) : (s.framed rip).msw = s.msw := by simp [framed, pushed]

theorem State.framed_SP (s : State) (rip : Word) : (s.framed rip).reg SP = s.reg SP - 6 := setReg_reg _ SP _

theorem State.framed_regs (s : State) (rip : Word) :
    (s.framed rip).regs = (s.setReg SP (s.reg SP - 6)).regs := by
  simp [framed, pushed, setReg]

/-- The words IRET takes from the frame of an entry in real mode. -/
theorem State.framed_load {s : State} (hm : Memory.wf s.mem = true) (hram : ∀ a ∈ s.pushCells 3, s.isRam a = true)
    (rip : Word) :
    (s.framed rip).load .ss (s.reg SP - 6) .word = rip ∧
    (s.framed rip).load .ss (s.reg SP - 6 + 2) .word = s.cs.sel ∧
    (s.framed rip).load .ss (s.reg SP - 6 + 4) .word = s.flags.image := by
  have hload := s.load_pushed hm (words := [s.flags.image, s.cs.sel, rip]) (by simp) hram
  rw [sub_add, sub_add]
  exact ⟨hload 2 (by simp), hload 1 (by simp), hload 0 (by simp)⟩

/-- IRET in a handler that has left the frame as it was pushed. -/
theorem State.returns_from_handler {s : State} {v : Byte} (h : s.canEnterReal v) (hm : Memory.wf s.mem = true)
    (hram : ∀ a ∈ s.pushCells 3, s.isRam a = true) (rip : Word) (f : Flags) (sel off : Word) :
    exec .iret ((s.framed rip).handlerAt f sel off) =
      .next (((s.framed rip).handlerAt f sel off).returnedReal rip s.cs.sel s.flags.image) := by
  obtain ⟨hpe, -, -, h1, h3, h5⟩ := h
  obtain ⟨hrip, hsel, hflags⟩ := framed_load hm hram rip
  have hret := (handlerAt_ready (s.framed rip) f sel off).interruptReturns (by rw [handlerAt_msw, framed_msw, hpe])
  simp only [handlerAt_reg, handlerAt_load, framed_SP, hrip, hsel, hflags] at hret
  refine hret ?_ ?_ ?_
  · exact mt sub_eq_iff_eq_add.mp h5
  · exact mt sub_eq_iff_eq_add.mp h3
  · exact mt sub_eq_iff_eq_add.mp h1

theorem State.returnedReal_regs (s : State) (off sel f : Word) :
    (s.returnedReal off sel f).regs = (s.setReg SP (s.reg SP + 6)).regs := rfl

/-- What INT n lowers SP by, IRET raises it by. -/
theorem State.returnedReal_framed_regs (s : State) (rip : Word) (f : Flags) (sel off rip' sel' f' : Word) :
    (((s.framed rip).handlerAt f sel off).returnedReal rip' sel' f').regs = s.regs := by
  have hsp : ((s.framed rip).handlerAt f sel off).reg SP + 6 = s.reg SP := by
    rw [handlerAt_reg, framed_SP, sub_add_cancel]
  have hregs : ((s.framed rip).handlerAt f sel off).regs = (s.setReg SP (s.reg SP - 6)).regs := s.framed_regs rip
  calc _ = ((s.setReg SP (s.reg SP - 6)).setReg SP (s.reg SP)).regs := by
        rw [returnedReal_regs, hsp, setReg, hregs]
        rfl
    _ = s.regs := by rw [setReg_setReg, setReg_self]

/-- In real mode IRET restores the FLAGS an entry has pushed. -/
theorem State.returnedReal_framed_flags {s : State} (hpe : s.msw.pe = false) (hform : s.RealModeForm) (rip : Word)
    (f : Flags) (sel off rip' sel' : Word) :
    (((s.framed rip).handlerAt f sel off).returnedReal rip' sel' s.flags.image).flags = s.flags := by
  obtain ⟨hiopl, hnt, -⟩ := hform hpe
  calc _ = ((s.framed rip).handlerAt f sel off).poppedFlags s.flags.image := rfl
    _ = Flags.loadReal s.flags.image := (Flags.loadReal_eq (by rw [handlerAt_msw, framed_msw, hpe]) _).symm
    _ = s.flags := Flags.loadReal_image hiopl hnt

/-- Settles O45: IRET takes back the three words of the frame INT n has pushed. -/
theorem interruptReturnReal : Obligations.InterruptReturnReal := by
  refine ⟨fun s hs hpe hoff hsel hflags => hs.interruptReturns hpe hoff hsel hflags, fun s v hinv hs h hram => ?_⟩
  have hint := hs.entersReal h
  rw [State.realEntry_eq] at hint
  exact ⟨_, _, hint, State.returns_from_handler h hinv.1 hram .., rfl, rfl,
    State.returnedReal_framed_flags h.1 hinv.2 .., State.returnedReal_framed_regs ..⟩

end Sys2Proof.Machine

/-! JMP and CALL intersegment in protected mode (45_protected_transfer.md R381 to R387): the tests both make said once,
the transfer into a code segment, and the call gate at the same level. -/

namespace Sys2Proof.Machine

/-! From the effect of an instruction to what it comes to. -/

/-- An instruction whose effect comes to an exception, the state unchanged. -/
theorem raises_of_settle {i : Instr} {s : State} {r : EStateM.Result Stop State Unit} {v : Byte} {e : Option Word}
    (hi : exec i s = settle r) (hr : r = .error (.exc v e) s) (hv : v ≠ 16 := by decide) : Raises i s v e := by
  rw [Raises, hi, hr, settle_exc e s hv]

theorem next_of_settle {i : Instr} {s t : State} {r : EStateM.Result Stop State Unit} (hi : exec i s = settle r)
    (hr : r = .ok () t) : exec i s = .next t.endInstruction := by rw [hi, hr, settle_ok]

/-! JMP and CALL as one instruction: they differ in what follows the tests of the descriptor. -/

/-- The two intersegment transfers. -/
inductive FarInstr where
  | jump
  | call

/-- Into a code segment named directly (45_protected_transfer.md R384). -/
def FarInstr.segment : FarInstr → Descriptor → Word → Word → M Unit
  | .jump => jumpSegment
  | .call => callSegment

/-- Through a call gate (45_protected_transfer.md R386, R387). -/
def FarInstr.gate : FarInstr → Descriptor → Word → M Unit
  | .jump => jumpGate
  | .call => callGate

/-- The task switch the instruction makes (45_protected_transfer.md R410). -/
def FarInstr.kind : FarInstr → SwitchKind
  | .jump => .jmp
  | .call => .call

/-- What the instruction does with the descriptor its selector names (45_protected_transfer.md R382, R383). -/
def FarInstr.byDescriptor (f : FarInstr) (d : Descriptor) (off sel : Word) : M Unit :=
  match d.systemType with
  | none => do
    checkCodeDirect d sel off
    f.segment d sel off
  | some t =>
    if t = 4 then f.gate d sel
    else if t = 5 then switchByGate f.kind d sel
    else if t = 1 then switchByTss f.kind d sel
    else stop (generalProtection (errSel sel))

/-- The whole effect in protected mode. -/
def FarInstr.effect (f : FarInstr) (off sel : Word) : M Unit := do
  require (fun _ => !isNull sel) (generalProtection 0)
  let d ← readDescriptor sel (generalProtection (errSel sel))
  f.byDescriptor d off sel

theorem jumpFarProtected_eq (off sel : Word) : jumpFarProtected off sel = FarInstr.jump.effect off sel := rfl

theorem callFarProtected_eq (off sel : Word) : callFarProtected off sel = FarInstr.call.effect off sel := rfl

theorem jumpFar_protected {s : State} (hpe : s.msw.pe = true) (off sel : Word) :
    jumpFar off sel s = FarInstr.jump.effect off sel s := by
  simp only [jumpFar, look_bind, hpe, ↓reduceIte, jumpFarProtected_eq]

theorem callFar_protected {s : State} (hpe : s.msw.pe = true) (off sel : Word) :
    callFar off sel s = FarInstr.call.effect off sel s := by
  simp only [callFar, look_bind, hpe, ↓reduceIte, callFarProtected_eq]

theorem IsFarJump.exec_eq {i : Instr} {s : State} {off sel : Word} (h : IsFarJump i s off sel) (hs : s.InProtected) :
    exec i s = settle (FarInstr.jump.effect off sel s) := by
  obtain ⟨hpe, hrep, hlock⟩ := hs
  rw [← jumpFar_protected hpe]
  rcases h with rfl | ⟨m, rfl, hread, rfl, rfl⟩
  · exact perform_eq hrep hlock
  · refine (perform_eq hrep hlock).trans ?_
    rw [bind_ok (readPointer_ok hread)]

theorem IsFarCall.exec_eq {i : Instr} {s : State} {off sel : Word} (h : IsFarCall i s off sel) (hs : s.InProtected) :
    exec i s = settle (FarInstr.call.effect off sel s) := by
  obtain ⟨hpe, hrep, hlock⟩ := hs
  rw [← callFar_protected hpe]
  rcases h with rfl | ⟨m, rfl, hread, rfl, rfl⟩
  · exact perform_eq hrep hlock
  · refine (perform_eq hrep hlock).trans ?_
    rw [bind_ok (readPointer_ok hread)]

/-- What JMP and CALL have in common is shown for either. -/
theorem exists_farInstr {i : Instr} {s : State} {off sel : Word} (hs : s.InProtected)
    (h : IsFarJump i s off sel ∨ IsFarCall i s off sel) :
    ∃ f : FarInstr, exec i s = settle (f.effect off sel s) :=
  h.elim (fun h => ⟨.jump, h.exec_eq hs⟩) fun h => ⟨.call, h.exec_eq hs⟩

/-! Reading the descriptor. -/

theorem require_notNull {s : State} {sel : Word} (h : sel &&& 0xFFFC ≠ 0) (e : Stop) :
    require (fun _ => !isNull sel) e s = .ok () s := require_true (by simp [isNull_false h])

theorem require_null {s : State} {sel : Word} (h : sel &&& 0xFFFC = 0) (e : Stop) :
    require (fun _ => !isNull sel) e s = .error e s := require_false (by simp [(isNull_iff sel).mpr h])

theorem readDescriptor_outside {s : State} {sel : Word} (h : s.descriptorAddr sel = none) (miss : Stop) :
    readDescriptor sel miss s = .error miss s := by rw [readDescriptor_eq, h]

theorem readDescriptor_named {s : State} {sel : Word} {a : Addr} (h : s.Names sel a) (miss : Stop) :
    readDescriptor sel miss s = .ok (s.descriptorAt a) s := readDescriptor_ok miss h.2.1 h.2.2

section
variable (f : FarInstr) {s : State} {off sel : Word}

theorem FarInstr.effect_null (h : sel &&& 0xFFFC = 0) : f.effect off sel s = .error (generalProtection 0) s :=
  bind_error (require_null h _)

theorem FarInstr.effect_outside (h : sel &&& 0xFFFC ≠ 0) (ha : s.descriptorAddr sel = none) :
    f.effect off sel s = .error (generalProtection (errSel sel)) s :=
  (bind_ok (require_notNull h _)).trans (bind_error (readDescriptor_outside ha _))

theorem FarInstr.effect_named {a : Addr} (h : s.Names sel a) :
    f.effect off sel s = f.byDescriptor (s.descriptorAt a) off sel s :=
  (bind_ok (require_notNull h.1 _)).trans (bind_ok (readDescriptor_named h _))

end

/-! Each type of descriptor. -/

theorem Descriptor.systemType_of_isCode {d : Descriptor} (h : d.isCode = true) : d.systemType = none := by
  rw [isCode, Bool.and_eq_true] at h
  rw [systemType, if_pos h.1]

section
variable (f : FarInstr) {d : Descriptor} {off sel : Word}

theorem FarInstr.byDescriptor_code (h : d.isCode = true) :
    f.byDescriptor d off sel = (checkCodeDirect d sel off >>= fun _ => f.segment d sel off) := by
  simp only [byDescriptor, Descriptor.systemType_of_isCode h]

theorem FarInstr.byDescriptor_gate (h : d.systemType = some 4) : f.byDescriptor d off sel = f.gate d sel := by
  simp only [byDescriptor, h, ↓reduceIte]

theorem FarInstr.byDescriptor_taskGate (h : d.systemType = some 5) :
    f.byDescriptor d off sel = switchByGate f.kind d sel := by
  simp only [byDescriptor, h, ↓reduceIte, Nat.reduceEqDiff]

theorem FarInstr.byDescriptor_tss (h : d.systemType = some 1) :
    f.byDescriptor d off sel = switchByTss f.kind d sel := by
  simp only [byDescriptor, h, ↓reduceIte, Nat.reduceEqDiff]

/-- A data segment, or a system descriptor that is neither a gate nor an available TSS. -/
theorem FarInstr.byDescriptor_other (s : State) (hc : d.isCode = false) (h1 : d.systemType ≠ some 1)
    (h4 : d.systemType ≠ some 4) (h5 : d.systemType ≠ some 5) :
    f.byDescriptor d off sel s = .error (generalProtection (errSel sel)) s := by
  unfold byDescriptor
  cases ht : d.systemType with
  | none =>
    refine (bind_error ?_ : (checkCodeDirect d sel off >>= fun _ => f.segment d sel off) s = _)
    exact bind_error (require_false hc)
  | some t =>
    rw [ht, ne_eq, Option.some.injEq] at h1 h4 h5
    simp only [if_neg h1, if_neg h4, if_neg h5, stop_apply]

end

/-! The tests of a code segment named directly (45_protected_transfer.md R381). -/

/-- Whether a code segment may be reached directly from CPL by a selector of this RPL. -/
def State.mayReach (s : State) (d : Descriptor) (sel : Word) : Prop :=
  if d.isConforming then d.dpl ≤ s.cpl else d.dpl = s.cpl ∧ selectorRpl sel ≤ s.cpl

theorem State.mayReach_iff (s : State) (d : Descriptor) (sel : Word) :
    (if d.isConforming then decide (d.dpl ≤ s.cpl) else d.dpl == s.cpl && decide (selectorRpl sel ≤ s.cpl)) = true ↔
      s.mayReach d sel := by
  unfold mayReach
  split <;> simp

section
variable {s : State} {d : Descriptor} {off sel : Word} (hc : d.isCode = true)
include hc

theorem checkCodeDirect_denied (h : ¬s.mayReach d sel) :
    checkCodeDirect d sel off s = .error (generalProtection (errSel sel)) s := by
  rw [← State.mayReach_iff] at h
  simp only [checkCodeDirect, require_bind, hc, ↓reduceIte, if_neg h]

/-- Of a code segment that may be reached presence is tested, then the offset. -/
theorem checkCodeDirect_reached (h : s.mayReach d sel) :
    checkCodeDirect d sel off s =
      if d.present then if off ≤ d.limit then .ok () s else .error (generalProtection 0) s
      else .error (notPresent (errSel sel)) s := by
  rw [← State.mayReach_iff] at h
  simp only [checkCodeDirect, require_bind, hc, ↓reduceIte, if_pos h, require, decide_eq_true_eq]

end

/-! Into the code segment (45_protected_transfer.md R384). -/

theorem State.endInstruction_inCode (s : State) (d : Descriptor) (sel off : Word) (level : Nat) :
    ((s.loadFrom .cs (withRpl sel level) d).transfer off).endInstruction = s.inCode d sel off level := rfl

theorem State.SameMemory.mono {s t : State} {l l' : List Nat} (h : s.SameMemory t l) (hl : l ⊆ l') :
    s.SameMemory t l' := fun a ha => h a fun hmem => ha (hl hmem)

theorem State.sameMemory_inCode (s : State) (d : Descriptor) (sel off : Word) (level : Nat) :
    s.SameMemory (s.inCode d sel off level) [s.physical (d.addr + 5)] := s.sameMemory_setAccessed d

theorem State.sameRegs_inCode (s : State) (d : Descriptor) (sel off : Word) (level : Nat) :
    s.SameRegs (s.inCode d sel off level) [] := fun r _ => s.reg_setAccessed d r

theorem State.physical_pushed (s : State) (words : List Word) (a : Addr) :
    (s.pushed words).physical a = s.physical a := physical_congr (by simp [pushed]) (by simp [pushed]) a

/-- Words pushed, then a transfer into a code segment. -/
theorem State.sameRegs_pushed_inCode (s : State) (words : List Word) (d : Descriptor) (sel off : Word) (level : Nat) :
    s.SameRegs ((s.pushed words).inCode d sel off level) [SP] :=
  (s.sameRegs_pushed words).trans ((s.pushed words).sameRegs_inCode d sel off level)

theorem State.sameMemory_pushed_inCode (s : State) (words : List Word) (d : Descriptor) (sel off : Word)
    (level : Nat) :
    s.SameMemory ((s.pushed words).inCode d sel off level) (s.physical (d.addr + 5) :: s.pushCells words.length) := by
  have h := (s.sameMemory_pushed words).trans ((s.pushed words).sameMemory_inCode d sel off level)
  rw [physical_pushed] at h
  exact h.mono (by simp)

theorem enterSame_ok {s : State} {d : Descriptor} {sel off : Word} {words : List Word}
    (hroom : frameStop s s.ss (s.reg SP) words.length = none) (hoff : off ≤ d.limit) :
    enterSame d sel off words s = .ok () (((s.pushed words).loadFrom .cs (withRpl sel s.cpl) d).transfer off) := by
  rw [enterSame_eq, hroom]
  exact if_pos hoff

theorem enterSame_noRoom {s : State} {d : Descriptor} {sel off : Word} {words : List Word} {e : Stop}
    (h : frameStop s s.ss (s.reg SP) words.length = some e) : enterSame d sel off words s = .error e s := by
  rw [enterSame_eq, h]

theorem frameStop_vector {s : State} {g : SegReg} {sp : Word} {n : Nat} {v : Byte} {e : Option Word}
    (h : frameStop s g sp n = some (.exc v e)) : v ≠ 16 := by
  rcases frameStop_exc h with rfl | rfl <;> decide

section
variable (f : FarInstr) {s : State} {off sel : Word} {a : Addr} (ha : s.Names sel a)
  (hc : (s.descriptorAt a).isCode = true)
include ha hc

theorem FarInstr.effect_denied (h : ¬s.mayReach (s.descriptorAt a) sel) :
    f.effect off sel s = .error (generalProtection (errSel sel)) s := by
  rw [f.effect_named ha, f.byDescriptor_code hc]
  exact bind_error (checkCodeDirect_denied hc h)

theorem FarInstr.effect_absent (h : s.mayReach (s.descriptorAt a) sel) (hp : (s.descriptorAt a).present = false) :
    f.effect off sel s = .error (notPresent (errSel sel)) s := by
  rw [f.effect_named ha, f.byDescriptor_code hc]
  exact bind_error ((checkCodeDirect_reached hc h).trans (if_neg (by simp [hp])))

theorem FarInstr.effect_beyond (h : s.mayReach (s.descriptorAt a) sel) (hp : (s.descriptorAt a).present = true)
    (hoff : (s.descriptorAt a).limit < off) : f.effect off sel s = .error (generalProtection 0) s := by
  rw [f.effect_named ha, f.byDescriptor_code hc]
  exact bind_error ((checkCodeDirect_reached hc h).trans ((if_pos hp).trans (if_neg (BitVec.not_le.mpr hoff))))

theorem FarInstr.effect_segment (h : s.mayReach (s.descriptorAt a) sel) (hp : (s.descriptorAt a).present = true)
    (hoff : off ≤ (s.descriptorAt a).limit) : f.effect off sel s = f.segment (s.descriptorAt a) sel off s := by
  rw [f.effect_named ha, f.byDescriptor_code hc]
  exact bind_ok ((checkCodeDirect_reached hc h).trans ((if_pos hp).trans (if_pos hoff)))

end

/-- Settles O40: the tests are those of either instruction, the transfer is that of JMP or of CALL. -/
theorem farTransferProtected : Obligations.FarTransferProtected := by
  intro s i off sel hs hi
  obtain ⟨f, hf⟩ := exists_farInstr hs hi
  refine ⟨fun h => raises_of_settle hf (f.effect_null h),
    fun h ha => raises_of_settle hf (f.effect_outside h ha), fun a ha => ⟨fun hc h1 h4 h5 => ?_,
    fun hc hl => raises_of_settle hf (f.effect_denied ha hc hl),
    fun hc hl hp => raises_of_settle hf (f.effect_absent ha hc hl hp),
    fun hc hl hp => ⟨fun hoff => raises_of_settle hf (f.effect_beyond ha hc hl hp hoff),
    fun hoff => ⟨fun hj => ⟨?_, ?_⟩, fun hcall => ⟨fun v x h => ?_, fun h => ⟨?_, ?_, ?_⟩⟩⟩⟩⟩⟩
  · rw [f.effect_named ha] at hf
    exact raises_of_settle hf (f.byDescriptor_other s hc h1 h4 h5)
  · exact next_of_settle (hj.exec_eq hs) (FarInstr.jump.effect_segment ha hc hl hp hoff)
  · exact s.sameMemory_inCode (s.descriptorAt a) sel off s.cpl
  · exact raises_of_settle (hcall.exec_eq hs)
      ((FarInstr.call.effect_segment ha hc hl hp hoff).trans (enterSame_noRoom h)) (frameStop_vector h)
  · exact next_of_settle (hcall.exec_eq hs)
      ((FarInstr.call.effect_segment ha hc hl hp hoff).trans (enterSame_ok h hoff))
  · exact s.sameRegs_pushed_inCode [s.cs.sel, s.ip] (s.descriptorAt a) sel off s.cpl
  · exact s.sameMemory_pushed_inCode [s.cs.sel, s.ip] (s.descriptorAt a) sel off s.cpl

end Sys2Proof.Machine

/-! JMP and CALL through a call gate (45_protected_transfer.md R385 to R387): the tests of the gate and of its
destination, which both make, and the transfer at the same level. -/

namespace Sys2Proof.Machine

section
variable {s : State} {g : Descriptor} {sel : Word}

theorem checkCallGate_denied (h : g.dpl < max s.cpl (selectorRpl sel)) :
    checkCallGate g sel s = .error (generalProtection (errSel sel)) s :=
  bind_error (require_false (decide_eq_false (Nat.not_le.mpr h)))

theorem checkCallGate_absent (hl : max s.cpl (selectorRpl sel) ≤ g.dpl) (hp : g.present = false) :
    checkCallGate g sel s = .error (notPresent (errSel sel)) s :=
  (bind_ok (require_true (decide_eq_true hl))).trans (bind_error (require_false hp))

variable (hl : max s.cpl (selectorRpl sel) ≤ g.dpl) (hp : g.present = true)
include hl hp

/-- A gate that may be used has its destination tested (45_protected_transfer.md R385). -/
theorem checkCallGate_usable :
    checkCallGate g sel s = (do
      require (fun _ => !isNull g.gateSelector) (generalProtection 0)
      let c ← readDescriptor g.gateSelector (generalProtection (errSel g.gateSelector))
      require (fun _ => c.isCode) (generalProtection (errSel g.gateSelector))
      require (fun s => c.dpl ≤ s.cpl) (generalProtection (errSel g.gateSelector))
      require (fun _ => c.present) (notPresent (errSel g.gateSelector))
      pure c) s :=
  (bind_ok (require_true (decide_eq_true hl))).trans (bind_ok (require_true hp))

theorem checkCallGate_null (h : g.gateSelector &&& 0xFFFC = 0) :
    checkCallGate g sel s = .error (generalProtection 0) s :=
  (checkCallGate_usable hl hp).trans (bind_error (require_null h _))

theorem checkCallGate_outside (h : g.gateSelector &&& 0xFFFC ≠ 0) (ha : s.descriptorAddr g.gateSelector = none) :
    checkCallGate g sel s = .error (generalProtection (errSel g.gateSelector)) s :=
  (checkCallGate_usable hl hp).trans
    ((bind_ok (require_notNull h _)).trans (bind_error (readDescriptor_outside ha _)))

/-- The tests of the segment the gate names. -/
theorem checkCallGate_named {a : Addr} (ha : s.Names g.gateSelector a) :
    checkCallGate g sel s =
      if (s.descriptorAt a).isCode = true ∧ (s.descriptorAt a).dpl ≤ s.cpl then
        if (s.descriptorAt a).present then .ok (s.descriptorAt a) s
        else .error (notPresent (errSel g.gateSelector)) s
      else .error (generalProtection (errSel g.gateSelector)) s := by
  rw [checkCallGate_usable hl hp, bind_ok (require_notNull ha.1 _), bind_ok (readDescriptor_named ha _)]
  simp only [require_bind, pure_apply, decide_eq_true_eq, ite_and]

theorem checkCallGate_wrong {a : Addr} (ha : s.Names g.gateSelector a)
    (h : (s.descriptorAt a).isCode = false ∨ s.cpl < (s.descriptorAt a).dpl) :
    checkCallGate g sel s = .error (generalProtection (errSel g.gateSelector)) s := by
  refine (checkCallGate_named hl hp ha).trans (if_neg fun ⟨hc, hd⟩ => ?_)
  rcases h with h | h
  · exact absurd hc (by simp [h])
  · exact absurd hd (Nat.not_le.mpr h)

theorem checkCallGate_gone {a : Addr} (ha : s.Names g.gateSelector a) (hc : (s.descriptorAt a).isCode = true)
    (hd : (s.descriptorAt a).dpl ≤ s.cpl) (h : (s.descriptorAt a).present = false) :
    checkCallGate g sel s = .error (notPresent (errSel g.gateSelector)) s :=
  (checkCallGate_named hl hp ha).trans ((if_pos ⟨hc, hd⟩).trans (if_neg (by simp [h])))

theorem checkCallGate_ok {a : Addr} (ha : s.NamesCode g.gateSelector a) (hd : (s.descriptorAt a).dpl ≤ s.cpl) :
    checkCallGate g sel s = .ok (s.descriptorAt a) s :=
  (checkCallGate_named hl hp ha.1).trans ((if_pos ⟨ha.2.1, hd⟩).trans (if_pos ha.2.2))

end

/-! Either instruction through a gate. -/

section
variable (f : FarInstr) {s : State} {g : Descriptor} {sel : Word}

theorem FarInstr.gate_error {e : Stop} (h : checkCallGate g sel s = .error e s) : f.gate g sel s = .error e s := by
  cases f
  · exact bind_error h
  · exact bind_error h

/-- To a segment of the same level, or a conforming one: the offset of the gate is tested, then the transfer is that
into the segment. -/
theorem FarInstr.gate_same {c : Descriptor} (h : checkCallGate g sel s = .ok c s)
    (hc : c.isConforming = true ∨ c.dpl = s.cpl) :
    f.gate g sel s =
      if g.limit ≤ c.limit then f.segment c g.gateSelector g.limit s else .error (generalProtection 0) s := by
  have hsame : (c.isConforming || c.dpl == s.cpl) = true := by simpa using hc
  cases f
  · refine (bind_ok h).trans ((bind_ok (require_true hsame)).trans ?_)
    simp only [require_bind, decide_eq_true_eq, segment]
  · refine (bind_ok h).trans ?_
    simp only [look_bind, if_pos hsame, require_bind, decide_eq_true_eq, segment]

end

/-- JMP may not go to an inner level (45_protected_transfer.md R386). -/
theorem jumpGate_inner {s : State} {g c : Descriptor} {sel : Word} (h : checkCallGate g sel s = .ok c s)
    (hd : c.dpl < s.cpl) (hc : c.isConforming = false) :
    jumpGate g sel s = .error (generalProtection (errSel g.gateSelector)) s :=
  (bind_ok h).trans (bind_error (require_false (by simp [hc, hd.ne])))

/-- Settles O41: the gate, its destination, and at the same level the transfer of JMP or of CALL. -/
theorem callGateSameLevel : Obligations.CallGateSameLevel := by
  intro s i off sel ga hs hga hgate hi
  have heffect (f : FarInstr) : f.effect off sel s = f.gate (s.descriptorAt ga) sel s := by
    rw [f.effect_named hga, f.byDescriptor_gate hgate]
  obtain ⟨f, hf⟩ := exists_farInstr hs hi
  rw [heffect] at hf
  refine ⟨fun hl => raises_of_settle hf (f.gate_error (checkCallGate_denied hl)),
    fun hl hp => raises_of_settle hf (f.gate_error (checkCallGate_absent hl hp)), fun hl hp =>
    ⟨fun h => raises_of_settle hf (f.gate_error (checkCallGate_null hl hp h)),
    fun h ha => raises_of_settle hf (f.gate_error (checkCallGate_outside hl hp h ha)),
    fun a ha => ⟨fun h => raises_of_settle hf (f.gate_error (checkCallGate_wrong hl hp ha h)),
    fun hc hd hgone => raises_of_settle hf (f.gate_error (checkCallGate_gone hl hp ha hc hd hgone)),
    fun hc hd hpresent => ?_⟩⟩⟩
  have hok := checkCallGate_ok hl hp ⟨ha, hc, hpresent⟩ hd
  refine ⟨fun hj hinner hconf => ?_, fun hsame => ⟨fun hoff => ?_, fun hoff =>
    ⟨fun hj => ⟨?_, ?_⟩, fun hcall hroom => ⟨?_, ?_, ?_⟩⟩⟩⟩
  · exact raises_of_settle (hj.exec_eq hs) ((heffect .jump).trans (jumpGate_inner hok hinner hconf))
  · exact raises_of_settle hf ((f.gate_same hok hsame).trans (if_neg (BitVec.not_le.mpr hoff)))
  · exact next_of_settle (hj.exec_eq hs)
      ((heffect .jump).trans ((FarInstr.jump.gate_same hok hsame).trans (if_pos hoff)))
  · exact s.sameMemory_inCode (s.descriptorAt a) _ _ s.cpl
  · exact next_of_settle (hcall.exec_eq hs)
      ((heffect .call).trans ((FarInstr.call.gate_same hok hsame).trans ((if_pos hoff).trans (enterSame_ok hroom hoff))))
  · exact s.sameRegs_pushed_inCode [s.cs.sel, s.ip] (s.descriptorAt a) _ _ s.cpl
  · exact s.sameMemory_pushed_inCode [s.cs.sel, s.ip] (s.descriptorAt a) _ _ s.cpl

end Sys2Proof.Machine

/-! Entry into an inner level (45_protected_transfer.md R388 to R392, 60_exceptions.md R530 to R532): CALL through a call
gate, software interrupts and exceptions by the same entry with other words. -/

namespace Sys2Proof.Machine

/-! The entry, by what its stack allows. -/

theorem State.HasInnerStack.noWords {s : State} {level k : Nat} {b : Addr} (h : s.HasInnerStack level b k) :
    s.HasInnerStack level b 0 := by
  obtain ⟨hlimit, htop, hn, hrpl, hdpl, hw, hp, -⟩ := h
  exact ⟨hlimit, htop, hn, hrpl, hdpl, hw, hp, rfl⟩

theorem State.HasInnerStack.room {s : State} {level k : Nat} {b : Addr} (h : s.HasInnerStack level b k) :
    frameStop s (segmentOf (s.descriptorAt b) (s.tssStack level).2) (s.tssStack level).1 k = none := by
  obtain ⟨-, -, -, -, -, -, -, hroom⟩ := h
  exact hroom

/-- Without room the frame stops with StackFault(0), the stack being writable data. -/
theorem State.LacksRoom.stop {s : State} {level k : Nat} {b : Addr} (hpe : s.msw.pe = true)
    (h : s.LacksRoom level b k) :
    frameStop s (segmentOf (s.descriptorAt b) (s.tssStack level).2) (s.tssStack level).1 k = some (stackFault 0) := by
  obtain ⟨⟨-, -, -, -, -, hw, -, -⟩, x, e, hstop⟩ := h
  obtain ⟨rfl, rfl⟩ := frameStop_writable hpe hw hstop
  exact hstop

/-- The frame of an entry lies on the stack of the inner level, which is in SS:SP. -/
def State.innerStacked (s : State) (level : Nat) (b : Addr) (words : List Word) : State :=
  let stack := segmentOf (s.descriptorAt b) (s.tssStack level).2
  let pushed := s.writeFrame stack (s.tssStack level).1 (s.ss.sel :: s.reg SP :: words)
  ((pushed.setAccessed (s.descriptorAt b)).setSeg .ss stack).setReg SP
    ((s.tssStack level).1 - BitVec.ofNat 16 (2 * (words.length + 2)))

theorem State.innerEntry_eq (s : State) (c : Descriptor) (csel eoff : Word) (b : Addr) (words : List Word) :
    s.innerEntry c csel eoff b words = (s.innerStacked c.dpl b words).inCode c csel eoff c.dpl := rfl

/-- The state in which an entry into an inner level completes. -/
def State.enteredInner (s : State) (c : Descriptor) (csel eoff : Word) (b : Addr) (words : List Word) : State :=
  ((s.innerStacked c.dpl b words).loadFrom .cs (withRpl csel c.dpl) c).transfer eoff

theorem State.endInstruction_enteredInner (s : State) (c : Descriptor) (csel eoff : Word) (b : Addr)
    (words : List Word) : (s.enteredInner c csel eoff b words).endInstruction = s.innerEntry c csel eoff b words :=
  (endInstruction_inCode _ c csel eoff c.dpl).trans (s.innerEntry_eq c csel eoff b words).symm

theorem State.enteredInner_flags (s : State) (c : Descriptor) (csel eoff : Word) (b : Addr) (words : List Word) :
    (s.enteredInner c csel eoff b words).flags = s.flags := by simp [enteredInner, innerStacked, loadFrom]

section
variable {s : State} {c : Descriptor} {csel eoff : Word} {b : Addr} {ws : M (List Word)} {words : List Word}

theorem enterInner_stackFails {x : Byte} {e : Word} (h : s.InnerStackFails c.dpl x e) :
    enterInner c csel eoff ws s = .error (.exc x (some e)) s := bind_error (innerStack_fails h)

/-- The words are read after the tests of the stack. -/
theorem enterInner_wordsStop {e : Stop} (h : s.HasInnerStack c.dpl b 0) (hw : ws s = .error e s) :
    enterInner c csel eoff ws s = .error e s := (bind_ok (innerStack_ok h)).trans (bind_error hw)

theorem enterInner_noRoom (hpe : s.msw.pe = true) (h : s.LacksRoom c.dpl b (words.length + 2))
    (hw : ws s = .ok words s) : enterInner c csel eoff ws s = .error (stackFault 0) s := by
  rw [enterInner_eq h.1 hw, h.stop hpe]

theorem enterInner_beyond (h : s.HasInnerStack c.dpl b (words.length + 2)) (hw : ws s = .ok words s)
    (hoff : c.limit < eoff) : enterInner c csel eoff ws s = .error (generalProtection 0) s := by
  rw [enterInner_eq h.noWords hw, h.room]
  exact if_neg (BitVec.not_le.mpr hoff)

theorem enterInner_ok (h : s.HasInnerStack c.dpl b (words.length + 2)) (hw : ws s = .ok words s)
    (hoff : eoff ≤ c.limit) : enterInner c csel eoff ws s = .ok () (s.enteredInner c csel eoff b words) := by
  rw [enterInner_eq h.noWords hw, h.room]
  exact if_pos hoff

end

theorem State.InnerStackFails.vector_ne {s : State} {level : Nat} {x : Byte} {e : Word}
    (h : s.InnerStackFails level x e) : x ≠ 16 := by
  rcases h.vector with rfl | rfl <;> decide

/-! What the entry leaves unchanged. -/

theorem State.sameRegs_innerStacked (s : State) (level : Nat) (b : Addr) (words : List Word) :
    s.SameRegs (s.innerStacked level b words) [SP] := by
  intro r hr
  simp only [innerStacked, setReg_reg_ne _ _ (List.ne_of_not_mem_cons hr), reg_setSeg, reg_setAccessed,
    reg_writeFrame]

theorem State.physical_writeFrame (s : State) (g : SegReg) (sp : Word) (words : List Word) (a : Addr) :
    (s.writeFrame g sp words).physical a = s.physical a := physical_congr (by simp) (by simp) a

theorem State.physical_innerStacked (s : State) (level : Nat) (b : Addr) (words : List Word) (a : Addr) :
    (s.innerStacked level b words).physical a = s.physical a :=
  physical_congr (by simp [innerStacked]) (by simp [innerStacked]) a

theorem State.sameMemory_innerStacked (s : State) (level : Nat) (b : Addr) (words : List Word) :
    s.SameMemory (s.innerStacked level b words) (s.physical (b + 5) ::
      s.frameCells (segmentOf (s.descriptorAt b) (s.tssStack level).2) (s.tssStack level).1 (words.length + 2)) := by
  have hframe := s.sameMemory_writeFrame (segmentOf (s.descriptorAt b) (s.tssStack level).2) (s.tssStack level).1
    (s.ss.sel :: s.reg SP :: words)
  have hmarked := hframe.trans (sameMemory_setAccessed _ (s.descriptorAt b))
  rw [physical_writeFrame] at hmarked
  have hstacked : s.SameMemory (s.innerStacked level b words) _ := hmarked
  exact hstacked.mono (by simp [descriptorAt])

theorem State.sameRegs_innerEntry (s : State) (c : Descriptor) (csel eoff : Word) (b : Addr) (words : List Word) :
    s.SameRegs (s.innerEntry c csel eoff b words) [SP] :=
  (s.sameRegs_innerStacked c.dpl b words).trans (sameRegs_inCode _ c csel eoff c.dpl)

/-- Memory changes in the frame and in the access rights of the two descriptors. -/
theorem State.sameMemory_innerEntry (s : State) (c : Descriptor) (csel eoff : Word) (b : Addr) (words : List Word) :
    s.SameMemory (s.innerEntry c csel eoff b words) (s.physical (c.addr + 5) :: s.physical (b + 5) ::
      s.frameCells (segmentOf (s.descriptorAt b) (s.tssStack c.dpl).2) (s.tssStack c.dpl).1 (words.length + 2)) := by
  have h := (s.sameMemory_innerStacked c.dpl b words).trans (sameMemory_inCode _ c csel eoff c.dpl)
  rw [physical_innerStacked] at h
  exact h.mono (by simp)

/-! Entry after the prefixes are used up, as of an exception, is the same entry. -/

theorem State.writeFrame_endInstruction (s : State) (g : SegReg) (sp : Word) (words : List Word) :
    s.endInstruction.writeFrame g sp words = (s.writeFrame g sp words).endInstruction := by
  induction words generalizing s sp with
  | nil => rfl
  | cons v rest ih => exact ih (s.storeVia g (sp - 2) .word v) (sp - 2)

theorem State.setAccessed_endInstruction (s : State) (d : Descriptor) :
    s.endInstruction.setAccessed d = (s.setAccessed d).endInstruction := by
  unfold setAccessed
  split <;> rfl

theorem State.setSeg_transfer_endInstruction (s : State) (r : SReg) (g : SegReg) (off : Word) :
    (s.endInstruction.setSeg r g).transfer off = ((s.setSeg r g).transfer off).endInstruction := by cases r <;> rfl

theorem State.loadFrom_transfer_endInstruction (s : State) (c : Descriptor) (csel eoff : Word) (level : Nat) :
    (s.endInstruction.loadFrom .cs (withRpl csel level) c).transfer eoff = s.inCode c csel eoff level := by
  rw [loadFrom, setAccessed_endInstruction, setSeg_transfer_endInstruction]
  exact s.endInstruction_inCode c csel eoff level

theorem State.descriptorAt_endInstruction (s : State) (a : Addr) :
    s.endInstruction.descriptorAt a = s.descriptorAt a := rfl

theorem State.gateAddr_endInstruction (s : State) (v : Byte) : s.endInstruction.gateAddr v = s.gateAddr v := rfl

theorem State.gateFlags_endInstruction (s : State) (v : Byte) : s.endInstruction.gateFlags v = s.gateFlags v := rfl

theorem frameStop_endInstruction (s : State) (g : SegReg) (sp : Word) (n : Nat) :
    frameStop s.endInstruction g sp n = frameStop s g sp n := by
  induction n generalizing sp with
  | zero => rfl
  | succ k ih =>
    simp only [frameStop, ih]
    rfl

theorem State.HasInnerStack.endInstruction {s : State} {level k : Nat} {b : Addr} (h : s.HasInnerStack level b k) :
    s.endInstruction.HasInnerStack level b k := by
  have hroom := h.room
  obtain ⟨hlimit, htop, hn, hrpl, hdpl, hw, hp, -⟩ := h
  rw [← frameStop_endInstruction] at hroom
  exact ⟨hlimit, htop, hn, hrpl, hdpl, hw, hp, hroom⟩

theorem State.LacksRoom.endInstruction {s : State} {level k : Nat} {b : Addr} (h : s.LacksRoom level b k) :
    s.endInstruction.LacksRoom level b k := by
  obtain ⟨hstack, x, e, hstop⟩ := h
  rw [← frameStop_endInstruction] at hstop
  exact ⟨hstack.endInstruction, x, e, hstop⟩

theorem State.innerEntry_endInstruction (s : State) (c : Descriptor) (csel eoff : Word) (b : Addr)
    (words : List Word) : s.endInstruction.enteredInner c csel eoff b words = s.innerEntry c csel eoff b words := by
  have hstacked : s.endInstruction.innerStacked c.dpl b words = (s.innerStacked c.dpl b words).endInstruction := by
    simp only [innerStacked, reg_endInstruction, writeFrame_endInstruction, setAccessed_endInstruction]
    rfl
  rw [enteredInner, hstacked, loadFrom_transfer_endInstruction, innerEntry_eq]

/-! CALL through a call gate. -/

/-- To a non-conforming segment of an inner level (45_protected_transfer.md R388). -/
theorem callGate_inner {s : State} {g c : Descriptor} {sel : Word} (h : checkCallGate g sel s = .ok c s)
    (hconf : c.isConforming = false) (hd : c.dpl < s.cpl) :
    callGate g sel s = enterInner c g.gateSelector g.limit (callWords g.wordCount) s := by
  have hinner : (c.isConforming || c.dpl == s.cpl) = false := by simp [hconf, hd.ne]
  refine (bind_ok h).trans ?_
  simp only [look_bind, hinner, Bool.false_eq_true, ↓reduceIte]

theorem callWords_ok {s : State} {n : Nat} (h : s.Pops n) :
    callWords n s = .ok (((List.range n).map fun k =>
      s.load .ss (s.reg SP + BitVec.ofNat 16 (2 * (n - 1 - k))) .word) ++ [s.cs.sel, s.ip]) s :=
  bind_ok (readParameters_ok h)

/-- The effect of a CALL that goes to an inner level. -/
theorem IsFarCall.exec_eq_enterInner {i : Instr} {s : State} {off sel : Word} {ga a : Addr}
    (h : IsFarCall i s off sel) (hs : s.InProtected) (hga : s.NamesCallGate sel ga)
    (ha : s.NamesCode (s.descriptorAt ga).gateSelector a) (hconf : (s.descriptorAt a).isConforming = false)
    (hd : (s.descriptorAt a).dpl < s.cpl) :
    exec i s = settle (enterInner (s.descriptorAt a) (s.descriptorAt ga).gateSelector (s.descriptorAt ga).limit
      (callWords (s.descriptorAt ga).wordCount) s) := by
  obtain ⟨hn, htype, hp, hl⟩ := hga
  rw [h.exec_eq hs, FarInstr.effect_named _ hn, FarInstr.byDescriptor_gate _ htype]
  exact congrArg settle (callGate_inner (checkCallGate_ok hl hp ha hd.le) hconf hd)

/-! Through a gate of the IDT. -/

/-- The gate of a vector is present and leads to a non-conforming code segment of an inner level. -/
structure State.LeadsInward (s : State) (v : Byte) (a : Addr) : Prop where
  gate : s.HasGate v
  present : (s.descriptorAt (s.gateAddr v)).present = true
  code : s.NamesCode (s.descriptorAt (s.gateAddr v)).gateSelector a
  nonconforming : (s.descriptorAt a).isConforming = false
  inner : (s.descriptorAt a).dpl < s.cpl

theorem State.LeadsInward.endInstruction {s : State} {v : Byte} {a : Addr} (h : s.LeadsInward v a) :
    s.endInstruction.LeadsInward v a := ⟨h.gate, h.present, h.code, h.nonconforming, h.inner⟩

section
variable {s : State} {v : Byte} {a : Addr} (h : s.LeadsInward v a) (rip : Word) {soft : Bool} (err : Option Word)
  (hsoft : soft = true → s.cpl ≤ (s.descriptorAt (s.gateAddr v)).dpl)
include h hsoft

/-- The entry into the level, then the flags. -/
theorem State.LeadsInward.enterProt_eq :
    enterProt v rip soft err s =
      (enterInner (s.descriptorAt a) (s.descriptorAt (s.gateAddr v)).gateSelector (s.descriptorAt (s.gateAddr v)).limit
        (pure ([s.flags.image, s.cs.sel, rip] ++ err.toList)) >>= fun _ =>
          update fun t => { t with
            flags := t.flags.enterGate ((s.descriptorAt (s.gateAddr v)).systemType == some 7) }) s := by
  have hallowed : (!soft || decide (s.cpl ≤ (s.descriptorAt (s.gateAddr v)).dpl)) = true := by
    cases soft
    · rfl
    · simpa using hsoft rfl
  have hinner : ((s.descriptorAt a).isConforming || (s.descriptorAt a).dpl == s.cpl) = false := by
    simp [h.nonconforming, h.inner.ne]
  rw [Machine.enterProt_eq rip soft err h.gate.inIdt, if_pos ((Descriptor.isIdtGate_iff _).mpr h.gate.isIdtGate),
    if_pos hallowed, if_pos h.present, h.gate.not_task, enterGate_eq rip err h.code h.inner.le, hinner]
  rfl

theorem State.LeadsInward.enterProt_stackFails {x : Byte} {e : Word}
    (hstack : s.InnerStackFails (s.descriptorAt a).dpl x e) :
    enterProt v rip soft err s = .error (.exc x (some e)) s :=
  (h.enterProt_eq rip err hsoft).trans (bind_error (enterInner_stackFails hstack))

variable {b : Addr}

theorem State.LeadsInward.enterProt_noRoom (hpe : s.msw.pe = true)
    (hroom : s.LacksRoom (s.descriptorAt a).dpl b (([s.flags.image, s.cs.sel, rip] ++ err.toList).length + 2)) :
    enterProt v rip soft err s = .error (stackFault 0) s :=
  (h.enterProt_eq rip err hsoft).trans (bind_error (enterInner_noRoom hpe hroom rfl))

variable (hstack : s.HasInnerStack (s.descriptorAt a).dpl b (([s.flags.image, s.cs.sel, rip] ++ err.toList).length + 2))
include hstack

theorem State.LeadsInward.enterProt_beyond
    (hoff : (s.descriptorAt a).limit < (s.descriptorAt (s.gateAddr v)).limit) :
    enterProt v rip soft err s = .error (generalProtection 0) s :=
  (h.enterProt_eq rip err hsoft).trans (bind_error (enterInner_beyond hstack rfl hoff))

theorem State.LeadsInward.enterProt_ok
    (hoff : (s.descriptorAt (s.gateAddr v)).limit ≤ (s.descriptorAt a).limit) :
    enterProt v rip soft err s = .ok () { s.enteredInner (s.descriptorAt a)
      (s.descriptorAt (s.gateAddr v)).gateSelector (s.descriptorAt (s.gateAddr v)).limit b
        ([s.flags.image, s.cs.sel, rip] ++ err.toList) with flags := s.gateFlags v } := by
  refine (h.enterProt_eq rip err hsoft).trans ((bind_ok (enterInner_ok hstack rfl hoff)).trans ?_)
  rw [update_apply, enteredInner_flags]
  rfl

end

/-- A software interrupt that completes. -/
theorem IsSoftwareInterrupt.exec_ok {i : Instr} {s t : State} {v : Byte} (hi : IsSoftwareInterrupt i s v)
    (hpe : s.msw.pe = true) (hs : s.Ready) (h : enterProt v s.ip true none s = .ok () t) :
    exec i s = .next t.endInstruction := by
  refine hs.completes hi.exec_eq ?_
  simp only [softwareInterrupt, look_bind, enter_protected hpe, h]

theorem State.endInstruction_withFlags (s : State) (f : Flags) :
    ({ s with flags := f } : State).endInstruction = { s.endInstruction with flags := f } := rfl

section
variable {s : State} {v : Byte} {a b : Addr} (h : s.LeadsInward v a) (hpe : s.msw.pe = true)
include h hpe

/-- A software interrupt into an inner level. -/
theorem State.LeadsInward.exec_eq {i : Instr} (hs : s.Ready) (hi : IsSoftwareInterrupt i s v)
    (hl : s.cpl ≤ (s.descriptorAt (s.gateAddr v)).dpl) (hstack : s.HasInnerStack (s.descriptorAt a).dpl b 5)
    (hoff : (s.descriptorAt (s.gateAddr v)).limit ≤ (s.descriptorAt a).limit) :
    exec i s = .next { s.innerEntry (s.descriptorAt a) (s.descriptorAt (s.gateAddr v)).gateSelector
      (s.descriptorAt (s.gateAddr v)).limit b [s.flags.image, s.cs.sel, s.ip] with flags := s.gateFlags v } := by
  rw [hi.exec_ok hpe hs (h.enterProt_ok s.ip none (fun _ => hl) hstack hoff), endInstruction_withFlags,
    endInstruction_enteredInner]
  rfl

/-- An exception into an inner level. -/
theorem State.LeadsInward.takeException_eq (err : Option Word)
    (hstack : s.HasInnerStack (s.descriptorAt a).dpl b (([s.flags.image, s.cs.sel, s.curIp] ++ err.toList).length + 2))
    (hoff : (s.descriptorAt (s.gateAddr v)).limit ≤ (s.descriptorAt a).limit) :
    takeException v err s = .next { s.innerEntry (s.descriptorAt a) (s.descriptorAt (s.gateAddr v)).gateSelector
      (s.descriptorAt (s.gateAddr v)).limit b ([s.flags.image, s.cs.sel, s.curIp] ++ err.toList) with
        flags := s.gateFlags v, trap := false } := by
  have hok := h.endInstruction.enterProt_ok s.curIp err (soft := false) (by simp) hstack.endInstruction hoff
  simp only [innerEntry_endInstruction, descriptorAt_endInstruction, gateAddr_endInstruction, gateFlags_endInstruction,
    endInstruction_flags, endInstruction_cs] at hok
  exact takeException_ok ((enter_protected (s := s.endInstruction) hpe _ _ _ _).trans hok)

end

/-- Settles O47: each of the three makes the entry with its own words; where a test fails CALL and a software interrupt
raise the exception, an exception becomes a double fault. -/
theorem innerLevelEntry : Obligations.InnerLevelEntry := by
  intro s a b c cells hpe hconf hd
  refine ⟨?_, ?_⟩
  · intro i off sel ga hs hcall hga g param params words t ha
    have hexec := hcall.exec_eq_enterInner ⟨hpe, hs⟩ hga ha hconf hd
    refine ⟨fun x e h => raises_of_settle hexec (enterInner_stackFails h) h.vector_ne, fun h k x e hk hj he => ?_,
      fun hpops => ?_⟩
    · exact raises_of_settle hexec (enterInner_wordsStop h (bind_error (readParameters_stop hk hj he)))
        (State.accessStop_exc he)
    have hwords : callWords g.wordCount s = .ok words s := callWords_ok hpops
    refine ⟨fun h => ?_, fun h => ⟨fun hoff => ?_, fun hoff => ⟨?_, ?_, ?_⟩⟩⟩
    · exact raises_of_settle hexec (enterInner_noRoom hpe h hwords)
    · exact raises_of_settle hexec (enterInner_beyond h hwords hoff)
    · have hnext := next_of_settle hexec (enterInner_ok h hwords hoff)
      rwa [State.endInstruction_enteredInner] at hnext
    · exact s.sameRegs_innerEntry c g.gateSelector g.limit b words
    · exact s.sameMemory_innerEntry c g.gateSelector g.limit b words
  · intro v g entry hv hp ha
    have hin : s.LeadsInward v a := ⟨hv, hp, ha, hconf, hd⟩
    refine ⟨fun x e h => ⟨fun i hs hi hl => ?_, fun err => ?_⟩, fun i hs hi hl => ⟨fun h => ?_, fun h =>
      ⟨fun hoff => ?_, fun hoff => ⟨?_, ?_, ?_⟩⟩⟩, fun err => ⟨fun h => ?_, fun h =>
      ⟨fun hoff => ?_, fun hoff => ⟨?_, ?_, ?_⟩⟩⟩⟩
    · exact raises_of_enterProt hpe hs hi h.vector_ne (hin.enterProt_stackFails s.ip none (fun _ => hl) h)
    · exact doubleFaults_of_enterProt hpe (hin.endInstruction.enterProt_stackFails s.curIp err (by simp) h)
    · exact raises_of_enterProt hpe hs hi (by decide) (hin.enterProt_noRoom s.ip none (fun _ => hl) hpe h)
    · exact raises_of_enterProt hpe hs hi (by decide) (hin.enterProt_beyond s.ip none (fun _ => hl) h hoff)
    · exact hin.exec_eq hpe hs hi hl h hoff
    · exact s.sameRegs_innerEntry c g.gateSelector g.limit b _
    · exact s.sameMemory_innerEntry c g.gateSelector g.limit b _
    · exact doubleFaults_of_enterProt hpe (hin.endInstruction.enterProt_noRoom s.curIp err (by simp) hpe h.endInstruction)
    · exact doubleFaults_of_enterProt hpe (hin.endInstruction.enterProt_beyond s.curIp err (by simp) h.endInstruction hoff)
    · exact hin.takeException_eq hpe err h hoff
    · exact s.sameRegs_innerEntry c g.gateSelector g.limit b _
    · exact s.sameMemory_innerEntry c g.gateSelector g.limit b _

end Sys2Proof.Machine

/-! RET intersegment and IRET within the task in protected mode (45_protected_transfer.md R396 to R399, R404, R405). -/

namespace Sys2Proof.Machine

/-! The code segment a return names (45_protected_transfer.md R396). -/

/-- Whether a descriptor is a code segment of the level returned to, or a conforming one of no outer level. -/
def Descriptor.AllowsReturn (d : Descriptor) (level : Nat) : Prop :=
  d.isCode = true ∧ if d.isConforming then d.dpl ≤ level else d.dpl = level

theorem Descriptor.allowsReturn_iff (d : Descriptor) (level : Nat) :
    d.AllowsReturn level ↔
      d.isCode = true ∧ (if d.isConforming then decide (d.dpl ≤ level) else d.dpl == level) = true := by
  unfold AllowsReturn
  cases d.isConforming <;> simp

section
variable {s : State} {sel off : Word}

theorem returnTarget_null (h : sel &&& 0xFFFC = 0) : returnTarget sel off s = .error (generalProtection 0) s :=
  bind_error (require_null h _)

/-- To more privilege, or outside the table. -/
theorem returnTarget_missing (hsel : sel &&& 0xFFFC ≠ 0) (h : selectorRpl sel < s.cpl ∨ s.descriptorAddr sel = none) :
    returnTarget sel off s = .error (generalProtection (errSel sel)) s := by
  refine (bind_ok (require_notNull hsel _)).trans ?_
  rw [require_bind]
  split
  case isFalse => rfl
  case isTrue hl =>
    have ha : s.descriptorAddr sel = none := h.resolve_left (Nat.not_lt.mpr (of_decide_eq_true hl))
    exact bind_error (readDescriptor_outside ha _)

variable {a : Addr} (ha : s.Names sel a) (hl : s.cpl ≤ selectorRpl sel)
include ha hl

theorem returnTarget_named :
    returnTarget sel off s = (do
      require (fun _ => (s.descriptorAt a).isCode) (generalProtection (errSel sel))
      require (fun _ => if (s.descriptorAt a).isConforming then (s.descriptorAt a).dpl ≤ selectorRpl sel
        else (s.descriptorAt a).dpl == selectorRpl sel) (generalProtection (errSel sel))
      require (fun _ => (s.descriptorAt a).present) (notPresent (errSel sel))
      require (fun _ => off ≤ (s.descriptorAt a).limit) (generalProtection 0)
      pure (s.descriptorAt a)) s :=
  (bind_ok (require_notNull ha.1 _)).trans
    ((bind_ok (require_true (decide_eq_true hl))).trans (bind_ok (readDescriptor_named ha _)))

theorem returnTarget_denied (h : ¬(s.descriptorAt a).AllowsReturn (selectorRpl sel)) :
    returnTarget sel off s = .error (generalProtection (errSel sel)) s := by
  rw [Descriptor.allowsReturn_iff] at h
  rw [returnTarget_named ha hl]
  by_cases hc : (s.descriptorAt a).isCode = true
  · exact (bind_ok (require_true hc)).trans (bind_error (require_false (Bool.eq_false_iff.mpr fun hd => h ⟨hc, hd⟩)))
  · exact bind_error (require_false (Bool.eq_false_iff.mpr hc))

/-- Of a segment that may be returned to presence is tested, then the offset. -/
theorem returnTarget_allowed (h : (s.descriptorAt a).AllowsReturn (selectorRpl sel)) :
    returnTarget sel off s =
      if (s.descriptorAt a).present then
        if off ≤ (s.descriptorAt a).limit then .ok (s.descriptorAt a) s else .error (generalProtection 0) s
      else .error (notPresent (errSel sel)) s := by
  rw [Descriptor.allowsReturn_iff] at h
  rw [returnTarget_named ha hl, bind_ok (require_true h.1), bind_ok (require_true h.2)]
  simp only [require_bind, pure_apply, decide_eq_true_eq]

end

/-! The stack segment of the outer level (45_protected_transfer.md R398). -/

/-- Whether a selector and its descriptor are writable data of a level. -/
def Descriptor.IsStackOf (d : Descriptor) (sel : Word) (level : Nat) : Prop :=
  selectorRpl sel = level ∧ d.dpl = level ∧ d.isWritableData = true

section
variable {s : State} {sel : Word} {level : Nat}

theorem outerStack_null (h : sel &&& 0xFFFC = 0) : outerStack sel level s = .error (generalProtection 0) s :=
  bind_error (require_null h _)

theorem outerStack_outside (h : sel &&& 0xFFFC ≠ 0) (ha : s.descriptorAddr sel = none) :
    outerStack sel level s = .error (generalProtection (errSel sel)) s :=
  (bind_ok (require_notNull h _)).trans (bind_error (readDescriptor_outside ha _))

variable {b : Addr} (hb : s.Names sel b)
include hb

theorem outerStack_named :
    outerStack sel level s =
      if (selectorRpl sel = level ∧ (s.descriptorAt b).dpl = level) ∧ (s.descriptorAt b).isWritableData = true then
        if (s.descriptorAt b).present then .ok (s.descriptorAt b) s else .error (stackFault (errSel sel)) s
      else .error (generalProtection (errSel sel)) s := by
  refine (bind_ok (require_notNull hb.1 _)).trans ((bind_ok (readDescriptor_named hb _)).trans ?_)
  simp only [require_bind, pure_apply, Bool.and_eq_true, beq_iff_eq, ite_and]

theorem outerStack_denied (h : ¬(s.descriptorAt b).IsStackOf sel level) :
    outerStack sel level s = .error (generalProtection (errSel sel)) s :=
  (outerStack_named hb).trans (if_neg fun ⟨⟨hrpl, hdpl⟩, hw⟩ => h ⟨hrpl, hdpl, hw⟩)

theorem outerStack_absent (h : (s.descriptorAt b).IsStackOf sel level) (hp : (s.descriptorAt b).present = false) :
    outerStack sel level s = .error (stackFault (errSel sel)) s :=
  (outerStack_named hb).trans ((if_pos ⟨⟨h.1, h.2.1⟩, h.2.2⟩).trans (if_neg (by simp [hp])))

theorem outerStack_ok (h : (s.descriptorAt b).IsStackOf sel level) (hp : (s.descriptorAt b).present = true) :
    outerStack sel level s = .ok (s.descriptorAt b) s :=
  (outerStack_named hb).trans ((if_pos ⟨⟨h.1, h.2.1⟩, h.2.2⟩).trans (if_pos hp))

end

/-! The return. -/

/-- A word read from the stack at an offset the state gives. -/
theorem readStack_eq {s : State} {f : State → Word} (h : s.accessStop .ss (f s) .word false = none) :
    (do segRead .ss (← look f) .word : M Word) s = .ok (s.load .ss (f s) .word) s := segRead_ok h

/-- To the same level (45_protected_transfer.md R397). -/
theorem returnWithinTask_same {s : State} {sel off size imm : Word} {c : Descriptor}
    (h : returnTarget sel off s = .ok c s) (hl : selectorRpl sel = s.cpl) :
    returnWithinTask sel off size imm s =
      .ok () (((s.loadFrom .cs sel c).setReg SP (s.reg SP + size + imm)).transfer off) := by
  refine (bind_ok h).trans ?_
  simp only [look_bind, hl, beq_self_eq_true, ↓reduceIte, update_apply]

section
variable {s : State} {sel off size imm : Word} {c : Descriptor} (h : returnTarget sel off s = .ok c s)
  (hl : s.cpl < selectorRpl sel) (hsp : s.accessStop .ss (s.reg SP + size + imm) .word false = none)
  (hss : s.accessStop .ss (s.reg SP + size + imm + 2) .word false = none)
include h hl hsp hss

/-- To an outer level the stack above the frame is read and its segment tested (45_protected_transfer.md R398). -/
theorem returnWithinTask_outer :
    returnWithinTask sel off size imm s =
      (outerStack (s.load .ss (s.reg SP + size + imm + 2) .word) (selectorRpl sel) >>= fun d => update fun t =>
        let u := (((t.loadFrom .cs sel c).loadFrom .ss (s.load .ss (s.reg SP + size + imm + 2) .word) d).setReg SP
          ((s.load .ss (s.reg SP + size + imm) .word : Word) + imm)).transfer off
        { u with ds := u.ds.dropPrivileged (selectorRpl sel), es := u.es.dropPrivileged (selectorRpl sel) }) s := by
  have hne : (selectorRpl sel == s.cpl) = false := by simp [hl.ne']
  refine (bind_ok h).trans ?_
  simp only [look_bind, hne, Bool.false_eq_true, ↓reduceIte]
  exact (bind_ok (segRead_ok hsp)).trans (bind_ok (segRead_ok hss))

theorem returnWithinTask_badStack {e : Stop}
    (he : outerStack (s.load .ss (s.reg SP + size + imm + 2) .word) (selectorRpl sel) s = .error e s) :
    returnWithinTask sel off size imm s = .error e s :=
  (returnWithinTask_outer h hl hsp hss).trans (bind_error he)

end

/-- DS and ES after the return, in the words of the statement. -/
theorem SegReg.dropPrivileged_eq (g : SegReg) (level : Nat) : g.dropPrivileged level = g.afterReturn level := by
  unfold dropPrivileged afterReturn
  cases g.rights with
  | null => rfl
  | real => rfl
  | descr ar => simp only [Bool.and_eq_true, Bool.or_eq_true, Bool.not_eq_true', decide_eq_true_eq, nulled]

/-- The state in which a return to an outer level completes. -/
def State.returnedOutward (s : State) (c d : Descriptor) (sel off ssel sp : Word) : State :=
  let t := (((s.loadFrom .cs sel c).loadFrom .ss ssel d).setReg SP sp).transfer off
  { t with ds := s.ds.afterReturn (selectorRpl sel), es := s.es.afterReturn (selectorRpl sel) }

theorem returnWithinTask_outer_ok {s : State} {sel off size imm : Word} {c d : Descriptor}
    (h : returnTarget sel off s = .ok c s) (hl : s.cpl < selectorRpl sel)
    (hsp : s.accessStop .ss (s.reg SP + size + imm) .word false = none)
    (hss : s.accessStop .ss (s.reg SP + size + imm + 2) .word false = none)
    (hd : outerStack (s.load .ss (s.reg SP + size + imm + 2) .word) (selectorRpl sel) s = .ok d s) :
    returnWithinTask sel off size imm s =
      .ok () (s.returnedOutward c d sel off (s.load .ss (s.reg SP + size + imm + 2) .word)
        ((s.load .ss (s.reg SP + size + imm) .word : Word) + imm)) := by
  refine (returnWithinTask_outer h hl hsp hss).trans ((bind_ok hd).trans ?_)
  have hds (ssel sp : Word) :
      ((((s.loadFrom .cs sel c).loadFrom .ss ssel d).setReg SP sp).transfer off).ds = s.ds := by
    simp [State.loadFrom, State.setSeg]
  have hes (ssel sp : Word) :
      ((((s.loadFrom .cs sel c).loadFrom .ss ssel d).setReg SP sp).transfer off).es = s.es := by
    simp [State.loadFrom, State.setSeg]
  simp only [update_apply, hds, hes, SegReg.dropPrivileged_eq]
  rfl

/-! The two instructions. -/

/-- IRET loads FLAGS and ends NMI servicing after the return (45_protected_transfer.md R405). -/
def State.finishReturn (s : State) (i : Instr) (f : Flags) : State :=
  if i = .iret then { s with flags := f, nmiInService := false } else s

theorem State.SameRegs.finishReturn {s t : State} {l : List Reg} (h : s.SameRegs t l) (i : Instr) (f : Flags) :
    s.SameRegs (t.finishReturn i f) l := by
  unfold State.finishReturn
  split <;> exact h

theorem State.SameMemory.finishReturn {s t : State} {l : List Nat} (h : s.SameMemory t l) (i : Instr) (f : Flags) :
    s.SameMemory (t.finishReturn i f) l := by
  unfold State.finishReturn
  split <;> exact h

theorem State.endInstruction_finishReturn (s : State) (i : Instr) (f : Flags) :
    (s.finishReturn i f).endInstruction = s.endInstruction.finishReturn i f := by
  unfold finishReturn
  split <;> rfl

theorem Flags.loadProtected_eq {s : State} (hpe : s.msw.pe = true) (v : Word) :
    s.flags.loadProtected s.cpl v = s.poppedFlags v := by
  rw [← s.loadFlags_eq, State.loadFlags, if_pos hpe]

section
variable {s : State} {n : Nat} (h : s.Pops n)
include h

theorem State.Pops.first (hn : 0 < n) : s.accessStop .ss (s.reg SP) .word false = none := by
  have h0 := h 0 hn
  rwa [show s.reg SP + BitVec.ofNat 16 (2 * 0) = s.reg SP from BitVec.add_zero _] at h0

theorem State.Pops.second (hn : 1 < n) : s.accessStop .ss (s.reg SP + 2) .word false = none := h 1 hn

theorem State.Pops.third (hn : 2 < n) : s.accessStop .ss (s.reg SP + 4) .word false = none := h 2 hn

/-- The offset and the selector a return takes from the stack. -/
theorem State.Pops.read_pair {β : Type} (hn : 1 < n) (f : Word → Word → M β) :
    (do
      let off ← (do segRead .ss (← look fun s => s.reg SP) .word)
      let sel ← (do segRead .ss (← look fun s => s.reg SP + 2) .word)
      f off sel : M β) s = f (s.load .ss (s.reg SP) .word) (s.load .ss (s.reg SP + 2) .word) s :=
  (bind_ok (readStack_eq (f := fun s => s.reg SP) (h.first (by omega)))).trans
    (bind_ok (readStack_eq (f := fun s => s.reg SP + 2) (h.second hn)))

end

theorem returnFar_protected {s : State} (hpe : s.msw.pe = true) (hp : s.Pops 2) (imm : Word) :
    returnFar imm s =
      returnWithinTask (s.load .ss (s.reg SP + 2) .word) (s.load .ss (s.reg SP) .word) 4 imm s := by
  refine (hp.read_pair (by decide) _).trans ?_
  simp only [look_bind, hpe, ↓reduceIte]

theorem returnFromInterrupt_protected {s : State} (hpe : s.msw.pe = true) (hnt : s.flags.nt = false)
    (hp : s.Pops 3) :
    returnFromInterrupt s =
      (returnWithinTask (s.load .ss (s.reg SP + 2) .word) (s.load .ss (s.reg SP) .word) 6 0 >>= fun _ =>
        update fun t => t.finishReturn .iret (s.poppedFlags (s.load .ss (s.reg SP + 4) .word))) s := by
  have hpop : returnFromInterrupt s = returnProtected s := by
    simp only [returnFromInterrupt, look_bind, hpe, hnt, Bool.not_true, Bool.false_eq_true, ↓reduceIte]
  rw [hpop, ← Flags.loadProtected_eq hpe]
  exact (hp.read_pair (by decide) _).trans
    (bind_ok (readStack_eq (f := fun s => s.reg SP + 4) (hp.third (by decide))))

/-- The effect of a return: the return within the task, then what IRET does besides. -/
theorem IsReturn.exec_eq {i : Instr} {s : State} {size imm : Word} (hi : IsReturn i s size imm) (hs : s.InProtected) :
    exec i s = settle ((returnWithinTask (s.load .ss (s.reg SP + 2) .word) (s.load .ss (s.reg SP) .word) size imm >>=
      fun _ => update fun t => t.finishReturn i (s.poppedFlags (s.load .ss (s.reg SP + 4) .word))) s) := by
  obtain ⟨hpe, hrep, hlock⟩ := hs
  have hfar (i : Instr) (hne : i ≠ .iret) (f : Flags) (m : M Unit) :
      (m >>= fun _ => update fun t => t.finishReturn i f) s = m s := by
    simp only [State.finishReturn, if_neg hne]
    exact congrFun (bind_pure_unit (x := m)) s
  rcases hi with ⟨rfl, rfl, rfl, hp⟩ | ⟨rfl, rfl, hp⟩ | ⟨rfl, rfl, rfl, hp, hnt⟩
  · rw [hfar _ (by simp), ← returnFar_protected hpe hp]
    exact perform_eq hrep hlock
  · rw [hfar _ (by simp), ← returnFar_protected hpe hp]
    exact perform_eq hrep hlock
  · rw [← returnFromInterrupt_protected hpe hnt hp]
    exact perform_eq hrep hlock

/-! What a completed return comes to, and what it leaves unchanged. -/

theorem State.sameRegs_returnedSame (s : State) (a : Addr) (sel off sp : Word) :
    s.SameRegs (s.returnedSame a sel off sp) [SP] :=
  fun r hr => (setReg_reg_ne _ _ (List.ne_of_not_mem_cons hr)).trans (s.reg_setAccessed (s.descriptorAt a) r)

theorem State.sameMemory_returnedSame (s : State) (a : Addr) (sel off sp : Word) :
    s.SameMemory (s.returnedSame a sel off sp) [s.physical (a + 5)] := s.sameMemory_setAccessed (s.descriptorAt a)

theorem State.sameRegs_returnedOuter (s : State) (a b : Addr) (sel off ssel sp : Word) :
    s.SameRegs (s.returnedOuter a b sel off ssel sp) [SP] :=
  fun r hr => (setReg_reg_ne _ _ (List.ne_of_not_mem_cons hr)).trans
    ((reg_setAccessed _ (s.descriptorAt b) r).trans (s.reg_setAccessed (s.descriptorAt a) r))

theorem State.physical_setAccessed (s : State) (d : Descriptor) (a : Addr) :
    (s.setAccessed d).physical a = s.physical a := physical_congr (by simp) (by simp) a

theorem State.sameMemory_returnedOuter (s : State) (a b : Addr) (sel off ssel sp : Word) :
    s.SameMemory (s.returnedOuter a b sel off ssel sp) [s.physical (a + 5), s.physical (b + 5)] := by
  rw [← physical_setAccessed s (s.descriptorAt a) (b + 5)]
  exact (s.sameMemory_setAccessed (s.descriptorAt a)).trans
    (sameMemory_setAccessed { s.setAccessed (s.descriptorAt a) with cs := segmentOf (s.descriptorAt a) sel }
      (s.descriptorAt b))

/-- Settles O48: RET and IRET are one return, whose code segment and outer stack are tested before anything is
changed. -/
theorem interruptReturnProtected : Obligations.InterruptReturnProtected := by
  intro s i size imm hs hi off sel level e finish
  have hexec := hi.exec_eq hs
  have hraise {v : Byte} {x : Option Word} (hv : v ≠ 16)
      (h : returnWithinTask sel off size imm s = .error (.exc v x) s) : Raises i s v x :=
    raises_of_settle hexec (bind_error h) hv
  have hnext {t : State} (h : returnWithinTask sel off size imm s = .ok () t) :
      exec i s = .next (finish t.endInstruction) := by
    have hfinished := next_of_settle hexec (bind_ok h)
    rwa [State.endInstruction_finishReturn] at hfinished
  refine ⟨fun h => hraise (by decide) (bind_error (returnTarget_null h)),
    fun h hmiss => hraise (by decide) (bind_error (returnTarget_missing h hmiss)), fun a ha hl => ?_⟩
  have hallowed := returnTarget_allowed (off := off) ha hl
  refine ⟨fun h => hraise (by decide) (bind_error (returnTarget_denied ha hl h)), fun h hp => ?_, fun h hp hoff => ?_,
    fun h hp hoff => ?_⟩
  · exact hraise (by decide) (bind_error ((hallowed h).trans (if_neg (by simp [hp]))))
  · exact hraise (by decide) (bind_error ((hallowed h).trans ((if_pos hp).trans (if_neg (BitVec.not_le.mpr hoff)))))
  have hcode := (hallowed h).trans ((if_pos hp).trans (if_pos hoff))
  refine ⟨fun hsame => ⟨?_, ?_, ?_⟩, ?_⟩
  · exact hnext (returnWithinTask_same hcode hsame)
  · exact (s.sameRegs_returnedSame a sel off _).finishReturn i _
  · exact (s.sameMemory_returnedSame a sel off _).finishReturn i _
  intro houter at_ hsp hss savedSp savedSs stackError
  have hbad {v : Byte} {x : Option Word} (hv : v ≠ 16)
      (h : outerStack savedSs level s = .error (.exc v x) s) : Raises i s v x :=
    hraise hv (returnWithinTask_badStack hcode houter hsp hss h)
  refine ⟨fun h => hbad (by decide) (outerStack_null h), fun h hmiss => hbad (by decide) (outerStack_outside h hmiss),
    fun b hb => ⟨fun h => hbad (by decide) (outerStack_denied hb h),
    fun h hp => hbad (by decide) (outerStack_absent hb h hp), fun h hp => ⟨?_, ?_, ?_⟩⟩⟩
  · exact hnext (returnWithinTask_outer_ok hcode houter hsp hss (outerStack_ok hb h hp))
  · exact (s.sameRegs_returnedOuter a b sel off savedSs _).finishReturn i _
  · exact (s.sameMemory_returnedOuter a b sel off savedSs _).finishReturn i _

end Sys2Proof.Machine

/-! What a task switch writes (45_protected_transfer.md R412, R414): the words of the outgoing task, the busy marks and
the back link. -/

namespace Sys2Proof.Machine

/-! Updates of memory alone. -/

/-- Nothing differs but memory and the record of overwritten code bytes. -/
def State.OnlyMemory (s t : State) : Prop := t = { s with mem := t.mem, stale := t.stale }

namespace State.OnlyMemory

variable {s t u : State}

theorem refl (s : State) : s.OnlyMemory s := rfl

theorem trans (h : s.OnlyMemory t) (k : t.OnlyMemory u) : s.OnlyMemory u := by
  unfold OnlyMemory at h k ⊢
  rw [k, h]

theorem writeWord (s : State) (a : Addr) (v : Word) : s.OnlyMemory (s.writeWord a v) := rfl

theorem writeWords (s : State) (a : Addr) (words : List Word) : s.OnlyMemory (s.writeWords a words) := by
  induction words generalizing s a with
  | nil => exact refl s
  | cons v rest ih => exact (writeWord s a v).trans (ih (s.writeWord a v) (a + 2))

theorem setSystemType (s : State) (a : Addr) (type : Byte) : s.OnlyMemory (s.setSystemType a type) := rfl

theorem saveTask (s : State) (k : SwitchKind) (rip : Word) : s.OnlyMemory (s.saveTask k rip) := writeWords s _ _

theorem linkTasks (s : State) (k : SwitchKind) (t : Descriptor) : s.OnlyMemory (s.linkTasks k t) := by
  cases k <;> rfl

theorem field {α : Type} (h : s.OnlyMemory t) (f : State → α)
    (hf : ∀ m l, f { s with mem := m, stale := l } = f s) : f t = f s := (congrArg f h).trans (hf _ _)

theorem msw (h : s.OnlyMemory t) : t.msw = s.msw := h.field State.msw fun _ _ => rfl
theorem board (h : s.OnlyMemory t) : t.board = s.board := h.field State.board fun _ _ => rfl
theorem ticks (h : s.OnlyMemory t) : t.ticks = s.ticks := h.field State.ticks fun _ _ => rfl
theorem tr (h : s.OnlyMemory t) : t.tr = s.tr := h.field State.tr fun _ _ => rfl
theorem gdtr (h : s.OnlyMemory t) : t.gdtr = s.gdtr := h.field State.gdtr fun _ _ => rfl
theorem idtr (h : s.OnlyMemory t) : t.idtr = s.idtr := h.field State.idtr fun _ _ => rfl
theorem ext (h : s.OnlyMemory t) : t.ext = s.ext := h.field State.ext fun _ _ => rfl

theorem physical (h : s.OnlyMemory t) (a : Addr) : t.physical a = s.physical a := physical_congr h.msw h.board a

theorem isRam (h : s.OnlyMemory t) (l : Nat) : t.isRam l = s.isRam l := by rw [State.isRam, State.isRam, h.board]

/-- A byte outside what changed reads as before. -/
theorem readByte (h : s.OnlyMemory t) {l : List Nat} (hl : s.SameMemory t l) {a : Addr} (ha : s.physical a ∉ l) :
    t.readByte a = s.readByte a := by
  simp only [State.readByte, byteAt, h.physical, h.board, h.ticks, hl _ ha]

end State.OnlyMemory

/-! Words at rising addresses. -/

/-- The memory locations of `count` words from a physical address on. -/
def State.wordCells (s : State) (a : Addr) (count : Nat) : List Nat :=
  (List.range (2 * count)).map fun j => s.physical (a + BitVec.ofNat 24 j)

theorem State.wordCells_succ (s : State) (a : Addr) (n : Nat) :
    s.wordCells a (n + 1) = s.physical a :: s.physical (a + 1) :: s.wordCells (a + 2) n := by
  have hstep (j : Nat) : a + BitVec.ofNat 24 (j + 1 + 1) = a + 2 + BitVec.ofNat 24 j := by
    rw [BitVec.add_assoc]
    congr 1
    bv_omega
  have hzero : a + BitVec.ofNat 24 0 = a := BitVec.add_zero a
  rw [wordCells, Nat.mul_succ, List.range_succ_eq_map, List.range_succ_eq_map]
  simp only [List.map_cons, List.map_map, Function.comp_def, Nat.succ_eq_add_one, hstep, hzero, Nat.zero_add]
  rfl

theorem State.mem_wordCells {s : State} {a : Addr} {n l : Nat} :
    l ∈ s.wordCells a n ↔ ∃ j < 2 * n, s.physical (a + BitVec.ofNat 24 j) = l := by
  simp [wordCells]

theorem State.wordCells_congr {s t : State} (h : s.OnlyMemory t) (a : Addr) (n : Nat) :
    t.wordCells a n = s.wordCells a n := by simp only [wordCells, h.physical]

/-- Bytes less than 2^20 apart lie at different locations. -/
theorem State.physical_add_ne (s : State) (a : Addr) {j k : Nat} (hj : j < 2 ^ 20) (hk : k < 2 ^ 20) (h : j ≠ k) :
    s.physical (a + BitVec.ofNat 24 j) ≠ s.physical (a + BitVec.ofNat 24 k) := by
  refine physical_ne ?_
  simp only [BitVec.toNat_add, BitVec.toNat_ofNat]
  omega

theorem State.sameMemory_writeWord (s : State) (a : Addr) (v : Word) :
    s.SameMemory (s.writeWord a v) [s.physical a, s.physical (a + 1)] :=
  (s.sameMemory_writeByte a (lowByte v)).trans (sameMemory_writeByte _ (a + 1) (highByte v))

theorem State.sameMemory_writeWords (s : State) (a : Addr) (words : List Word) :
    s.SameMemory (s.writeWords a words) (s.wordCells a words.length) := by
  induction words generalizing s a with
  | nil => exact fun _ _ => rfl
  | cons v rest ih =>
    have hrest := ih (s.writeWord a v) (a + 2)
    rw [wordCells_congr (OnlyMemory.writeWord s a v)] at hrest
    rw [List.length_cons, wordCells_succ]
    exact (s.sameMemory_writeWord a v).trans hrest

/-- A word below those written reads as before. -/
theorem State.readWord_writeWords_above (s : State) (a : Addr) {words : List Word} (hlen : words.length < 2 ^ 18) :
    (s.writeWords (a + 2) words).readWord a = s.readWord a := by
  have hbyte {j : Nat} (hj : j < 2) :
      (s.writeWords (a + 2) words).readByte (a + BitVec.ofNat 24 j) = s.readByte (a + BitVec.ofNat 24 j) := by
    refine (OnlyMemory.writeWords s _ words).readByte (s.sameMemory_writeWords _ words) fun hmem => ?_
    obtain ⟨k, hk, heq⟩ := mem_wordCells.mp hmem
    have hadd : a + 2 + BitVec.ofNat 24 k = a + BitVec.ofNat 24 (k + 2) := by bv_omega
    rw [hadd] at heq
    exact physical_add_ne s a (by omega) (by omega) (by omega) heq
  have hlow := hbyte (j := 0) (by decide)
  rw [show a + BitVec.ofNat 24 0 = a from BitVec.add_zero a] at hlow
  have hhigh : (s.writeWords (a + 2) words).readByte (a + 1) = s.readByte (a + 1) := hbyte (j := 1) (by decide)
  rw [readWord, hlow, hhigh, readWord]

/-- Words written to RAM read back. -/
theorem State.readWord_writeWords {s : State} (hm : Memory.wf s.mem = true) {a : Addr} {words : List Word}
    (hlen : words.length < 2 ^ 18) (hram : ∀ l ∈ s.wordCells a words.length, s.isRam l = true) (j : Nat)
    (h : j < words.length) : (s.writeWords a words).readWord (a + BitVec.ofNat 24 (2 * j)) = words[j] := by
  induction words generalizing s a j with
  | nil => exact absurd h (Nat.not_lt_zero j)
  | cons v rest ih =>
    rw [List.length_cons] at hlen h
    simp only [List.length_cons, wordCells_succ, List.mem_cons, forall_eq_or_imp] at hram
    obtain ⟨hlow, hhigh, hram⟩ := hram
    cases j with
    | zero =>
      rw [show a + BitVec.ofNat 24 (2 * 0) = a from BitVec.add_zero a]
      exact (readWord_writeWords_above (s.writeWord a v) a (by omega)).trans (readWord_writeWord hm hlow hhigh v)
    | succ j =>
      have hadd : a + BitVec.ofNat 24 (2 * (j + 1)) = a + 2 + BitVec.ofNat 24 (2 * j) := by bv_omega
      rw [hadd]
      refine ih (writeWord_wf hm a v) (by omega) (fun l hl => ?_) j (by omega)
      rw [wordCells_congr (OnlyMemory.writeWord s a v)] at hl
      exact hram l hl

/-! The outgoing task (45_protected_transfer.md R412). -/

/-- IRET clears NT in the saved image. -/
theorem State.saveTask_eq (s : State) (k : SwitchKind) (rip : Word) :
    s.saveTask k rip =
      s.writeWords (s.tr.base + 14) (s.taskWords rip { s.flags with nt := s.flags.nt && k != .iret }) := by
  by_cases hk : k = .iret
  · simp [saveTask, hk]
  · have hnt : (k != .iret) = true := bne_iff_ne.mpr hk
    simp only [saveTask, if_neg hk, hnt, Bool.and_true]

theorem State.savedCells_eq (s : State) : s.savedCells = s.wordCells (s.tr.base + 14) 14 := by
  have hadd (j : Nat) : s.tr.base + BitVec.ofNat 24 (14 + j) = s.tr.base + 14 + BitVec.ofNat 24 j := by bv_omega
  simp only [savedCells, wordCells, hadd]

theorem State.sameMemory_saveTask (s : State) (k : SwitchKind) (rip : Word) :
    s.SameMemory (s.saveTask k rip) s.savedCells := by
  rw [savedCells_eq]
  exact s.sameMemory_writeWords _ _

/-- The words of the outgoing task read back from a TSS in RAM. -/
theorem State.readWord_saveTask {s : State} (hm : Memory.wf s.mem = true) (k : SwitchKind) (rip : Word)
    (hram : ∀ a ∈ s.savedCells, s.isRam a = true) (j : Nat) (h : j < 14) :
    (s.saveTask k rip).readWord (s.tr.base + BitVec.ofNat 24 (14 + 2 * j)) =
      (s.taskWords rip { s.flags with nt := s.flags.nt && k != .iret })[j] := by
  rw [savedCells_eq] at hram
  have hadd : s.tr.base + BitVec.ofNat 24 (14 + 2 * j) = s.tr.base + 14 + BitVec.ofNat 24 (2 * j) := by bv_omega
  rw [saveTask_eq, hadd]
  exact readWord_writeWords (words := s.taskWords rip _) hm (by simp [taskWords]) hram j h

/-! The busy marks and the back link (45_protected_transfer.md R414). -/

theorem State.physical_inj {s : State} (hpe : s.msw.pe = true) {a b : Addr} (h : s.physical a = s.physical b) :
    a = b := BitVec.eq_of_toNat_eq (by simpa [physical, hpe] using h)

theorem State.readByte_setSystemType {s : State} (hm : Memory.wf s.mem = true) {a : Addr}
    (hram : s.isRam (s.physical (a + 5)) = true) (type : Byte) :
    (s.setSystemType a type).readByte (a + 5) = (s.readByte (a + 5) &&& 0xF0) ||| type :=
  readByte_writeByte hm hram _

theorem State.readByte_setSystemType_ne {s : State} (hpe : s.msw.pe = true) {a b : Addr} (h : b ≠ a + 5) (type : Byte) :
    (s.setSystemType a type).readByte b = s.readByte b :=
  readByte_writeByte_ne s _ fun e => h (physical_inj hpe e)

theorem State.sameMemory_setSystemType (s : State) (a : Addr) (type : Byte) :
    s.SameMemory (s.setSystemType a type) [s.physical (a + 5)] := s.sameMemory_writeByte _ _

/-- The descriptor of the outgoing task. -/
def State.oldTask (s : State) : Addr := s.gdtr.base + zeroExtend24 (s.tr.sel &&& 0xFFF8)

theorem State.sameMemory_linkTasks (s : State) (k : SwitchKind) (t : Descriptor) :
    s.SameMemory (s.linkTasks k t) (s.linkCells k t) := by
  have hlinked : s.SameMemory ((s.setSystemType t.addr 3).writeWord t.base s.tr.sel)
      [s.physical (t.addr + 5), s.physical t.base, s.physical (t.base + 1)] :=
    (s.sameMemory_setSystemType t.addr 3).trans (sameMemory_writeWord _ t.base s.tr.sel)
  cases k with
  | jmp => exact (s.sameMemory_setSystemType s.oldTask 1).trans (sameMemory_setSystemType _ t.addr 3)
  | call => exact hlinked
  | int => exact hlinked
  | iret => exact s.sameMemory_setSystemType s.oldTask 1

/-- CALL and INT write the back link. -/
theorem State.readWord_linkTasks {s : State} (hm : Memory.wf s.mem = true) {k : SwitchKind} (hk : k = .call ∨ k = .int)
    {t : Descriptor} (hlow : s.isRam (s.physical t.base) = true) (hhigh : s.isRam (s.physical (t.base + 1)) = true) :
    (s.linkTasks k t).readWord t.base = s.tr.sel := by
  have hlinked : ((s.setSystemType t.addr 3).writeWord t.base s.tr.sel).readWord t.base = s.tr.sel :=
    readWord_writeWord (s := s.setSystemType t.addr 3) (setSystemType_wf hm _ _) hlow hhigh _
  rcases hk with rfl | rfl
  · exact hlinked
  · exact hlinked

/-- A second mark of the same byte leaves the upper half of the first. -/
theorem remark_type (v : Byte) : (((v &&& 0xF0) ||| 1) &&& 0xF0) ||| 3 = (v &&& 0xF0) ||| 3 := by
  revert v
  decide

/-- The incoming task is marked busy, but for IRET. -/
theorem State.readByte_linkTasks_new {s : State} (hm : Memory.wf s.mem = true) (hpe : s.msw.pe = true) {k : SwitchKind}
    (hk : k ≠ .iret) {t : Descriptor} (hram : s.isRam (s.physical (t.addr + 5)) = true)
    (hlink : k = .jmp ∨ (t.addr + 5 ≠ t.base ∧ t.addr + 5 ≠ t.base + 1)) :
    (s.linkTasks k t).readByte (t.addr + 5) = (s.readByte (t.addr + 5) &&& 0xF0) ||| 3 := by
  have hlinked (h : t.addr + 5 ≠ t.base ∧ t.addr + 5 ≠ t.base + 1) :
      ((s.setSystemType t.addr 3).writeWord t.base s.tr.sel).readByte (t.addr + 5) =
        (s.readByte (t.addr + 5) &&& 0xF0) ||| 3 :=
    (readByte_writeWord_ne (s.setSystemType t.addr 3) _ (fun e => h.1 (physical_inj hpe e))
      fun e => h.2 (physical_inj hpe e)).trans (readByte_setSystemType hm hram 3)
  cases k with
  | jmp =>
    refine (readByte_setSystemType (s := s.setSystemType s.oldTask 1) (setSystemType_wf hm _ _) hram 3).trans ?_
    by_cases hold : t.addr + 5 = s.oldTask + 5
    · rw [hold] at hram ⊢
      rw [readByte_setSystemType hm hram, remark_type]
    · rw [readByte_setSystemType_ne hpe hold]
  | call => exact hlinked (hlink.resolve_left (by decide))
  | int => exact hlinked (hlink.resolve_left (by decide))
  | iret => exact absurd rfl hk

/-- JMP and IRET mark the outgoing task available. -/
theorem State.readByte_linkTasks_old {s : State} (hm : Memory.wf s.mem = true) (hpe : s.msw.pe = true) {k : SwitchKind}
    (hk : k = .jmp ∨ k = .iret) {t : Descriptor} (hram : s.isRam (s.physical (s.oldTask + 5)) = true)
    (hne : k = .jmp → s.oldTask ≠ t.addr) :
    (s.linkTasks k t).readByte (s.oldTask + 5) = (s.readByte (s.oldTask + 5) &&& 0xF0) ||| 1 := by
  have hmarked := readByte_setSystemType hm hram 1
  rcases hk with rfl | rfl
  · refine (readByte_setSystemType_ne (s := s.setSystemType s.oldTask 1) hpe (fun e => ?_) 3).trans hmarked
    exact hne rfl (add_right_cancel e)
  · exact hmarked

end Sys2Proof.Machine

/-! What a task switch loads (45_protected_transfer.md R413, R414): the validation of the incoming task taken apart, and
what the state it ends in holds. -/

namespace Sys2Proof.Machine

/-! Effects that complete. -/

theorem bind_eq_ok {α β : Type} {m : M α} {f : α → M β} {s t : State} {b : β} (h : (m >>= f) s = .ok b t) :
    ∃ a u, m s = .ok a u ∧ f a u = .ok b t := by
  rw [bind_apply] at h
  split at h
  case h_1 a u hm => exact ⟨a, u, hm, h⟩
  case h_2 => cases h

theorem require_bind_eq_ok {β : Type} {c : State → Bool} {e : Stop} {f : Unit → M β} {s t : State} {b : β}
    (h : (require c e >>= f) s = .ok b t) : c s = true ∧ f () s = .ok b t := by
  rw [require_bind] at h
  split at h
  case isTrue hc => exact ⟨hc, h⟩
  case isFalse => cases h

theorem readDescriptor_bind_eq_ok {β : Type} {sel : Word} {miss : Stop} {f : Descriptor → M β} {s t : State} {b : β}
    (h : (readDescriptor sel miss >>= f) s = .ok b t) :
    ∃ a, s.descriptorAddr sel = some a ∧ f (s.descriptorAt a) s = .ok b t := by
  obtain ⟨d, u, hread, hf⟩ := bind_eq_ok h
  rw [readDescriptor_eq] at hread
  split at hread
  case h_1 => cases hread
  case h_2 a ha =>
    split at hread
    case isTrue => cases hread
    case isFalse =>
      cases hread
      exact ⟨a, ha, hf⟩

/-! What the loads of the new segments leave unchanged. -/

/-- Nothing differs but memory, the record of overwritten code bytes and the segment registers. -/
def State.OnlySegments (s t : State) : Prop :=
  t = { s with mem := t.mem, stale := t.stale, es := t.es, cs := t.cs, ss := t.ss, ds := t.ds }

namespace State.OnlySegments

variable {s t u : State}

theorem refl (s : State) : s.OnlySegments s := rfl

theorem trans (h : s.OnlySegments t) (k : t.OnlySegments u) : s.OnlySegments u := by
  unfold OnlySegments at h k ⊢
  rw [k, h]

theorem loadFrom (s : State) (r : SReg) (sel : Word) (d : Descriptor) : s.OnlySegments (s.loadFrom r sel d) := by
  unfold OnlySegments State.loadFrom setAccessed
  cases r <;> split <;> rfl

theorem field {α : Type} (h : s.OnlySegments t) (f : State → α)
    (hf : ∀ m l es cs ss ds, f { s with mem := m, stale := l, es := es, cs := cs, ss := ss, ds := ds } = f s) :
    f t = f s := (congrArg f h).trans (hf _ _ _ _ _ _)

theorem msw (h : s.OnlySegments t) : t.msw = s.msw := h.field State.msw fun _ _ _ _ _ _ => rfl
theorem board (h : s.OnlySegments t) : t.board = s.board := h.field State.board fun _ _ _ _ _ _ => rfl

theorem physical (h : s.OnlySegments t) (a : Addr) : t.physical a = s.physical a := physical_congr h.msw h.board a

theorem descriptorAddr (h : s.OnlySegments t) (sel : Word) : t.descriptorAddr sel = s.descriptorAddr sel :=
  h.field (State.descriptorAddr · sel) fun _ _ _ _ _ _ => rfl

end State.OnlySegments

/-! Two states that see the same memory. -/

/-- The same bytes are read at every address. -/
structure State.SameView (s t : State) : Prop where
  mem : t.mem = s.mem
  board : t.board = s.board
  msw : t.msw = s.msw
  ticks : t.ticks = s.ticks

namespace State.SameView

variable {s t u : State}

theorem trans (h : s.SameView t) (k : t.SameView u) : s.SameView u :=
  ⟨k.mem.trans h.mem, k.board.trans h.board, k.msw.trans h.msw, k.ticks.trans h.ticks⟩

theorem physical (h : s.SameView t) (a : Addr) : t.physical a = s.physical a := physical_congr h.msw h.board a

theorem descriptorAt (h : s.SameView t) (a : Addr) : t.descriptorAt a = s.descriptorAt a := by
  simp only [State.descriptorAt, readWord, readByte_congr h.mem h.board h.msw h.ticks]

theorem setAccessed (h : s.SameView t) (d : Descriptor) : (s.setAccessed d).SameView (t.setAccessed d) := by
  refine ⟨?_, by simpa using h.board, by simpa using h.msw, by simpa using h.ticks⟩
  unfold State.setAccessed
  split
  · exact h.mem
  · simp only [writeByte_mem, isRam, h.physical, h.board, h.mem]
    rfl

theorem setSeg (h : s.SameView t) (r : SReg) (g : SegReg) : s.SameView (t.setSeg r g) := by
  cases r <;> exact ⟨h.mem, h.board, h.msw, h.ticks⟩

theorem loadFrom (h : s.SameView t) (r : SReg) (sel : Word) (d : Descriptor) :
    (s.setAccessed d).SameView (t.loadFrom r sel d) := (h.setAccessed d).setSeg r _

end State.SameView

/-! A segment register loaded with the selector it holds. -/

/-- The load of a segment register from the descriptor at `a`, for the selector the register holds. -/
def State.reload (s : State) (r : SReg) (a : Addr) : State := s.loadFrom r (s.seg r).sel (s.descriptorAt a)

theorem State.seg_setAccessed (s : State) (d : Descriptor) (r : SReg) : (s.setAccessed d).seg r = s.seg r := by
  cases r <;> simp [seg]

theorem State.seg_reload (s : State) (r : SReg) (a : Addr) :
    (s.reload r a).seg r = segmentOf (s.descriptorAt a) (s.seg r).sel := setSeg_seg _ r _

theorem State.seg_reload_ne (s : State) {r q : SReg} (a : Addr) (h : q ≠ r) : (s.reload r a).seg q = s.seg q :=
  (setSeg_seg_ne _ _ h).trans (s.seg_setAccessed _ q)

theorem State.sel_reload (s : State) (r : SReg) (a : Addr) (q : SReg) : ((s.reload r a).seg q).sel = (s.seg q).sel := by
  by_cases h : q = r
  · rw [h, seg_reload]
    rfl
  · rw [seg_reload_ne s a h]

theorem State.SameView.reload {s t : State} (h : s.SameView t) (r : SReg) (a : Addr) :
    (s.setAccessed (s.descriptorAt a)).SameView (t.reload r a) := by
  rw [State.reload, h.descriptorAt]
  exact h.loadFrom r _ _

/-- The same selectors, with caches and accessed bits that may differ. -/
structure State.Reloaded (s t : State) : Prop where
  only : s.OnlySegments t
  sel (r : SReg) : (t.seg r).sel = (s.seg r).sel

theorem State.Reloaded.refl (s : State) : s.Reloaded s := ⟨.refl s, fun _ => rfl⟩

theorem State.Reloaded.trans {s t u : State} (h : s.Reloaded t) (k : t.Reloaded u) : s.Reloaded u :=
  ⟨h.only.trans k.only, fun r => (k.sel r).trans (h.sel r)⟩

theorem State.reloaded_reload (s : State) (r : SReg) (a : Addr) : s.Reloaded (s.reload r a) :=
  ⟨.loadFrom s r _ _, s.sel_reload r a⟩

/-- The access rights byte of the descriptor a selector names. -/
def State.markOf (s : State) (sel : Word) : List Nat := (s.descriptorAddr sel).toList.map fun a => s.physical (a + 5)

theorem State.Reloaded.markOf {s t : State} (h : s.Reloaded t) (r : SReg) :
    s.markOf (s.seg r).sel = t.markOf (t.seg r).sel := by
  simp only [State.markOf, h.only.descriptorAddr, h.only.physical, h.sel]

theorem State.sameMemory_reload {s : State} {r : SReg} {a : Addr} (h : s.descriptorAddr (s.seg r).sel = some a) :
    s.SameMemory (s.reload r a) (s.markOf (s.seg r).sel) := by
  have hmark : s.markOf (s.seg r).sel = [s.physical (a + 5)] := by simp [markOf, h]
  intro l hl
  rw [hmark] at hl
  refine (congrArg (Memory.read · l) ?_).trans (s.sameMemory_setAccessed (s.descriptorAt a) l hl)
  simp [reload, loadFrom]

/-- DS or ES of the incoming task: a null selector leaves it as it is. -/
def State.ReloadsData (s : State) (r : SReg) (t : State) : Prop :=
  if (s.seg r).sel &&& 0xFFFC = 0 then t = s
  else ∃ a, s.descriptorAddr (s.seg r).sel = some a ∧ t = s.reload r a

section
variable {s t : State} {r : SReg} (h : s.ReloadsData r t)
include h

/-- Either nothing happens or the register is loaded. -/
theorem State.ReloadsData.cases : t = s ∨ ∃ a, s.descriptorAddr (s.seg r).sel = some a ∧ t = s.reload r a := by
  unfold ReloadsData at h
  split at h
  · exact .inl h
  · exact .inr h

theorem State.ReloadsData.reloaded : s.Reloaded t := by
  rcases h.cases with rfl | ⟨a, -, rfl⟩
  · exact .refl _
  · exact s.reloaded_reload r a

theorem State.ReloadsData.seg_ne {q : SReg} (hq : q ≠ r) : t.seg q = s.seg q := by
  rcases h.cases with rfl | ⟨a, -, rfl⟩
  · rfl
  · exact s.seg_reload_ne a hq

theorem State.ReloadsData.wf (hm : Memory.wf s.mem = true) : Memory.wf t.mem = true := by
  rcases h.cases with rfl | ⟨a, -, rfl⟩
  · exact hm
  · exact loadFrom_wf hm r _ _

theorem State.ReloadsData.sameMemory : s.SameMemory t (s.markOf (s.seg r).sel) := by
  rcases h.cases with rfl | ⟨a, ha, rfl⟩
  · exact fun _ _ => rfl
  · exact sameMemory_reload ha

/-- The cache, and the memory after the accessed bit, in terms of a state that sees the same memory. -/
theorem State.ReloadsData.cached {x : State} (hx : x.SameView s) :
    ∃ y : State, y.SameView t ∧
      if (s.seg r).sel &&& 0xFFFC = 0 then t.seg r = s.seg r ∧ y = x
      else ∃ a, s.descriptorAddr (s.seg r).sel = some a ∧ t.seg r = segmentOf (x.descriptorAt a) (s.seg r).sel ∧
        y = x.setAccessed (x.descriptorAt a) := by
  unfold ReloadsData at h
  split at h
  case isTrue hnull =>
    subst h
    refine ⟨x, hx, ?_⟩
    rw [if_pos hnull]
    exact ⟨rfl, rfl⟩
  case isFalse hnull =>
    obtain ⟨a, ha, rfl⟩ := h
    refine ⟨_, hx.reload r a, ?_⟩
    rw [if_neg hnull]
    refine ⟨a, ha, ?_, rfl⟩
    rw [seg_reload, hx.descriptorAt]

theorem State.ReloadsData.cache {x : State} (hx : x.SameView s) :
    if (s.seg r).sel &&& 0xFFFC = 0 then t.seg r = s.seg r
    else ∃ a, s.descriptorAddr (s.seg r).sel = some a ∧ t.seg r = segmentOf (x.descriptorAt a) (s.seg r).sel := by
  obtain ⟨y, _, hcached⟩ := h.cached hx
  split at hcached
  case isTrue hnull =>
    rw [if_pos hnull]
    exact hcached.1
  case isFalse hnull =>
    obtain ⟨a, ha, hseg, _⟩ := hcached
    rw [if_neg hnull]
    exact ⟨a, ha, hseg⟩

end

/-! The validation. -/

/-- LDTR with the table that the descriptor at `a` describes, for the selector LDTR holds. -/
def State.reloadLdt (s : State) (a : Addr) : State :=
  let d := s.descriptorAt a
  { s with ldtr := { sel := s.ldtr.sel, base := d.base, limit := d.limit, valid := true } }

/-- LDTR of the incoming task: a null selector leaves it unusable. -/
def State.LoadsLdt (s t : State) : Prop :=
  if s.ldtr.sel &&& 0xFFFC = 0 then t = s
  else ∃ a, s.descriptorAddr s.ldtr.sel = some a ∧ selectorTi s.ldtr.sel = false ∧ t = s.reloadLdt a

theorem taskLdt_eq_ok {s t : State} (h : taskLdt s.ldtr.sel s = .ok () t) : s.LoadsLdt t := by
  unfold taskLdt at h
  unfold State.LoadsLdt
  by_cases hnull : s.ldtr.sel &&& 0xFFFC = 0
  · rw [if_pos ((isNull_iff _).mpr hnull)] at h
    rw [if_pos hnull]
    cases h
    rfl
  · rw [if_neg (by simp [isNull_false hnull])] at h
    rw [if_neg hnull]
    obtain ⟨hti, h⟩ := require_bind_eq_ok h
    obtain ⟨a, ha, h⟩ := readDescriptor_bind_eq_ok h
    obtain ⟨-, h⟩ := require_bind_eq_ok h
    obtain ⟨-, h⟩ := require_bind_eq_ok h
    cases h
    exact ⟨a, ha, by simpa using hti, rfl⟩

theorem taskCs_eq_ok {s t : State} (h : taskCs s.cs.sel s = .ok () t) :
    ∃ a, s.descriptorAddr s.cs.sel = some a ∧ t = s.reload .cs a := by
  obtain ⟨-, h⟩ := require_bind_eq_ok h
  obtain ⟨a, ha, h⟩ := readDescriptor_bind_eq_ok h
  obtain ⟨-, h⟩ := require_bind_eq_ok h
  obtain ⟨-, h⟩ := require_bind_eq_ok h
  obtain ⟨-, h⟩ := require_bind_eq_ok h
  cases h
  exact ⟨a, ha, rfl⟩

theorem taskSs_eq_ok {s t : State} (h : taskSs s.ss.sel s = .ok () t) :
    ∃ a, s.descriptorAddr s.ss.sel = some a ∧ t = s.reload .ss a := by
  obtain ⟨-, h⟩ := require_bind_eq_ok h
  obtain ⟨a, ha, h⟩ := readDescriptor_bind_eq_ok h
  obtain ⟨-, h⟩ := require_bind_eq_ok h
  obtain ⟨-, h⟩ := require_bind_eq_ok h
  cases h
  exact ⟨a, ha, rfl⟩

theorem taskData_eq_ok {s t : State} {r : SReg} (h : taskData r (s.seg r).sel s = .ok () t) : s.ReloadsData r t := by
  unfold taskData at h
  unfold State.ReloadsData
  by_cases hnull : (s.seg r).sel &&& 0xFFFC = 0
  · rw [if_pos ((isNull_iff _).mpr hnull)] at h
    rw [if_pos hnull]
    cases h
    rfl
  · rw [if_neg (by simp [isNull_false hnull])] at h
    rw [if_neg hnull]
    obtain ⟨a, ha, h⟩ := readDescriptor_bind_eq_ok h
    obtain ⟨-, h⟩ := require_bind_eq_ok h
    obtain ⟨-, h⟩ := require_bind_eq_ok h
    cases h
    exact ⟨a, ha, rfl⟩

/-- A validation that passes: LDTR, CS and SS, then DS and ES, and the limit of CS. -/
structure State.Validates (s u : State) (ldt : State) (a b : Addr) (data : State) : Prop where
  loadsLdt : s.LoadsLdt ldt
  code : ldt.descriptorAddr (ldt.seg .cs).sel = some a
  stack : (ldt.reload .cs a).descriptorAddr ((ldt.reload .cs a).seg .ss).sel = some b
  loadsDs : ((ldt.reload .cs a).reload .ss b).ReloadsData .ds data
  loadsEs : data.ReloadsData .es u
  inLimit : u.ip ≤ u.cs.limit

theorem validateTask_eq_ok {s u : State} (h : validateTask s = .ok () u) :
    ∃ ldt a b data, s.Validates u ldt a b data := by
  unfold validateTask at h
  rw [look_bind] at h
  obtain ⟨_, ldt, hldt, h⟩ := bind_eq_ok h
  rw [look_bind] at h
  obtain ⟨_, t, hcs, h⟩ := bind_eq_ok h
  obtain ⟨a, ha, rfl⟩ := taskCs_eq_ok hcs
  rw [look_bind] at h
  obtain ⟨_, t, hss, h⟩ := bind_eq_ok h
  obtain ⟨b, hb, rfl⟩ := taskSs_eq_ok hss
  rw [look_bind] at h
  obtain ⟨_, data, hds, h⟩ := bind_eq_ok h
  rw [look_bind] at h
  obtain ⟨_, t, hes, h⟩ := bind_eq_ok h
  unfold require at h
  split at h
  case isTrue hlimit =>
    cases h
    exact ⟨ldt, a, b, data, taskLdt_eq_ok hldt, ha, hb, taskData_eq_ok hds, taskData_eq_ok hes,
      of_decide_eq_true hlimit⟩
  case isFalse => cases h

end Sys2Proof.Machine

/-! What a completed task switch ends in (45_protected_transfer.md R412 to R415): its steps, from the state in which the
outgoing task is saved and linked. -/

namespace Sys2Proof.Machine

/-! LDTR. -/

/-- The memory seen, the segment registers, and all else but LDTR, whose selector stays. -/
theorem State.LoadsLdt.cases {s t : State} (h : s.LoadsLdt t) : ∃ g, t = { s with ldtr := g } ∧ g.sel = s.ldtr.sel := by
  unfold LoadsLdt at h
  split at h
  · exact ⟨s.ldtr, h, rfl⟩
  · obtain ⟨a, -, -, rfl⟩ := h
    exact ⟨_, rfl, rfl⟩

/-- A selector of the GDT names its descriptor whatever LDTR holds. -/
theorem State.descriptorAddr_gdt {s t : State} {sel : Word} (hti : selectorTi sel = false) (h : t.gdtr = s.gdtr) :
    t.descriptorAddr sel = s.descriptorAddr sel := by
  simp only [descriptorAddr, hti, h, Bool.false_eq_true, ↓reduceIte]

/-! The state after the validation. -/

section
variable {s u ldt data : State} {a b : Addr} (h : s.Validates u ldt a b data)
include h

theorem State.Validates.reloaded_data : ((ldt.reload .cs a).reload .ss b).Reloaded u :=
  h.loadsDs.reloaded.trans h.loadsEs.reloaded

theorem State.Validates.reloaded_stack : (ldt.reload .cs a).Reloaded u :=
  (reloaded_reload _ .ss b).trans h.reloaded_data

/-- The validation writes nothing but memory, the caches of the segment registers and LDTR. -/
theorem State.Validates.reloaded : ldt.Reloaded u := (reloaded_reload ldt .cs a).trans h.reloaded_stack

theorem State.Validates.field {α : Type} (f : State → α)
    (hf : ∀ (x : State) m l es cs ss ds, f { x with mem := m, stale := l, es := es, cs := cs, ss := ss, ds := ds } = f x)
    (hg : ∀ g, f { s with ldtr := g } = f s) : f u = f s := by
  obtain ⟨g, hldt, -⟩ := h.loadsLdt.cases
  rw [h.reloaded.only.field f (hf ldt), hldt, hg]

theorem State.Validates.seg_ldt (r : SReg) : ldt.seg r = s.seg r := by
  obtain ⟨g, hldt, -⟩ := h.loadsLdt.cases
  rw [hldt]
  cases r <;> rfl

/-- Each segment register holds the selector of the incoming task. -/
theorem State.Validates.sel (r : SReg) : (u.seg r).sel = (s.seg r).sel := by
  rw [h.reloaded.sel, h.seg_ldt]

theorem State.Validates.ldtSel : u.ldtr.sel = s.ldtr.sel := by
  obtain ⟨g, hldt, hsel⟩ := h.loadsLdt.cases
  rw [h.reloaded.only.field (·.ldtr) fun _ _ _ _ _ _ => rfl, hldt, ← hsel]

theorem State.Validates.sameView_ldt : s.SameView ldt := by
  obtain ⟨g, hldt, -⟩ := h.loadsLdt.cases
  rw [hldt]
  exact ⟨rfl, rfl, rfl, rfl⟩

theorem State.Validates.wf (hm : Memory.wf s.mem = true) : Memory.wf u.mem = true := by
  rw [← h.sameView_ldt.mem] at hm
  exact h.loadsEs.wf (h.loadsDs.wf (loadFrom_wf (loadFrom_wf hm .cs _ _) .ss _ _))

/-- Only the access rights bytes of the descriptors that the new selectors name are written. -/
theorem State.Validates.sameMemory :
    s.SameMemory u (u.markOf (u.seg .cs).sel ++ u.markOf (u.seg .ss).sel ++ u.markOf (u.seg .ds).sel ++
      u.markOf (u.seg .es).sel) := by
  have hcs := sameMemory_reload h.code
  have hss := sameMemory_reload h.stack
  have hds := h.loadsDs.sameMemory
  have hes := h.loadsEs.sameMemory
  rw [h.reloaded.markOf] at hcs
  rw [h.reloaded_stack.markOf] at hss
  rw [h.reloaded_data.markOf] at hds
  rw [h.loadsEs.reloaded.markOf] at hes
  intro l hl
  rw [((hcs.trans hss).trans hds |>.trans hes) l hl, h.sameView_ldt.mem]

/-- LDTR in terms of a state that sees the same memory. -/
theorem State.Validates.ldtr_eq {m : State} (hm : m.SameView s) (hvalid : s.ldtr.valid = false) :
    if s.ldtr.sel &&& 0xFFFC = 0 then u.ldtr.valid = false
    else ∃ a, u.descriptorAddr s.ldtr.sel = some a ∧ selectorTi s.ldtr.sel = false ∧
      u.ldtr = { sel := s.ldtr.sel, base := (m.descriptorAt a).base, limit := (m.descriptorAt a).limit, valid := true } := by
  have hldtr : u.ldtr = ldt.ldtr := h.reloaded.only.field (·.ldtr) fun _ _ _ _ _ _ => rfl
  have hgdtr : u.gdtr = s.gdtr := h.field (·.gdtr) (fun _ _ _ _ _ _ _ => rfl) fun _ => rfl
  have hload := h.loadsLdt
  unfold LoadsLdt at hload
  split at hload
  case isTrue hnull =>
    rw [if_pos hnull, hldtr, hload, hvalid]
  case isFalse hnull =>
    obtain ⟨c, hc, hti, hldt⟩ := hload
    rw [if_neg hnull]
    refine ⟨c, (descriptorAddr_gdt hti hgdtr).trans hc, hti, ?_⟩
    rw [hldtr, hldt, ← hm.descriptorAt]
    rfl

/-- The caches of CS, SS, DS and ES, each read with the accessed bits of those before it set, in terms of a state that
sees the same memory. -/
theorem State.Validates.caches {m : State} (hm : m.SameView s) (hnulled : ∀ r, (s.seg r).rights = .null) :
    u.descriptorAddr (s.seg .cs).sel = some a ∧ u.seg .cs = segmentOf (m.descriptorAt a) (s.seg .cs).sel ∧
      let codeMarked := m.setAccessed (m.descriptorAt a)
      u.descriptorAddr (s.seg .ss).sel = some b ∧
        u.seg .ss = segmentOf (codeMarked.descriptorAt b) (s.seg .ss).sel ∧
      let stackMarked := codeMarked.setAccessed (codeMarked.descriptorAt b)
      ∃ dataMarked : State,
        (if (s.seg .ds).sel &&& 0xFFFC = 0 then (u.seg .ds).rights = .null ∧ dataMarked = stackMarked
         else ∃ c, u.descriptorAddr (s.seg .ds).sel = some c ∧
           u.seg .ds = segmentOf (stackMarked.descriptorAt c) (s.seg .ds).sel ∧
           dataMarked = stackMarked.setAccessed (stackMarked.descriptorAt c)) ∧
        (if (s.seg .es).sel &&& 0xFFFC = 0 then (u.seg .es).rights = .null
         else ∃ c, u.descriptorAddr (s.seg .es).sel = some c ∧
           u.seg .es = segmentOf (dataMarked.descriptorAt c) (s.seg .es).sel) := by
  have hldt := hm.trans h.sameView_ldt
  have hcode := hldt.reload .cs a
  obtain ⟨dataMarked, hdata, hds⟩ := h.loadsDs.cached (hcode.reload .ss b)
  have hes := h.loadsEs.cache hdata
  have hdsSeg : u.seg .ds = data.seg .ds := h.loadsEs.seg_ne (by decide)
  have hssSeg : u.seg .ss = ((ldt.reload .cs a).reload .ss b).seg .ss := by
    rw [h.loadsEs.seg_ne (by decide), h.loadsDs.seg_ne (by decide)]
  have hcsSeg : u.seg .cs = (ldt.reload .cs a).seg .cs := by
    rw [h.loadsEs.seg_ne (by decide), h.loadsDs.seg_ne (by decide), seg_reload_ne _ _ (by decide)]
  have hdsOld : ((ldt.reload .cs a).reload .ss b).seg .ds = s.seg .ds := by
    rw [seg_reload_ne _ _ (by decide), seg_reload_ne _ _ (by decide), h.seg_ldt]
  have hesOld : data.seg .es = s.seg .es := by
    rw [h.loadsDs.seg_ne (by decide), seg_reload_ne _ _ (by decide), seg_reload_ne _ _ (by decide), h.seg_ldt]
  rw [hdsOld, ← hdsSeg] at hds
  rw [hesOld] at hes
  simp only [← h.reloaded_data.only.descriptorAddr] at hds
  simp only [← h.loadsEs.reloaded.only.descriptorAddr] at hes
  refine ⟨?_, ?_, ?_, ?_, dataMarked, ?_, ?_⟩
  · rw [h.reloaded.only.descriptorAddr, ← h.seg_ldt, h.code]
  · rw [hcsSeg, seg_reload, hldt.descriptorAt, h.seg_ldt]
  · rw [← h.seg_ldt, ← sel_reload ldt .cs a, h.reloaded_stack.only.descriptorAddr, h.stack]
  · rw [hssSeg, seg_reload, hcode.descriptorAt, sel_reload, h.seg_ldt]
  · split at hds
    case isTrue hnull =>
      rw [if_pos hnull, hds.1, hnulled]
      exact ⟨rfl, hds.2⟩
    case isFalse hnull => rwa [if_neg hnull]
  · split at hes
    case isTrue hnull => rw [if_pos hnull, hes, hnulled]
    case isFalse hnull => rwa [if_neg hnull]

end

/-! The whole switch. -/

/-- A task switch that completes has passed its tests, and the validation in the new task. -/
theorem taskSwitch_eq_ok {s u : State} {k : SwitchKind} {tsel rip : Word} {t : Descriptor}
    (h : taskSwitch k tsel t rip s = .ok () u) :
    ∃ v ldt a b data, (((s.saveTask k rip).linkTasks k t).installTask k tsel t).Validates v ldt a b data ∧
      u = v.finishSwitch := by
  obtain ⟨-, h⟩ := require_bind_eq_ok h
  obtain ⟨-, h⟩ := require_bind_eq_ok h
  obtain ⟨-, h⟩ := require_bind_eq_ok h
  rw [update_bind] at h
  obtain ⟨_, v, hv, h⟩ := bind_eq_ok h
  obtain ⟨ldt, a, b, data, hvalid⟩ := validateTask_eq_ok hv
  cases h
  exact ⟨v, ldt, a, b, data, hvalid, rfl⟩

theorem State.sameView_installTask (m : State) (k : SwitchKind) (tsel : Word) (t : Descriptor) :
    m.SameView (m.installTask k tsel t) := ⟨rfl, rfl, rfl, rfl⟩

theorem State.reg_installTask (m : State) (k : SwitchKind) (tsel : Word) (t : Descriptor) (r : Reg) :
    (m.installTask k tsel t).reg r = m.tssWord t (18 + 2 * r.toNat) := by
  obtain ⟨⟨n, hn⟩⟩ := r
  simp only [State.reg, BitVec.toNat_ofFin, installTask]
  interval_cases n <;> rfl

theorem State.onlyMemory_linked (s : State) (k : SwitchKind) (rip : Word) (t : Descriptor) :
    s.OnlyMemory ((s.saveTask k rip).linkTasks k t) := (OnlyMemory.saveTask s k rip).trans (.linkTasks _ k t)

/-- The memory locations of the busy marks and of the back link are those of the task that is left. -/
theorem State.OnlyMemory.linkCells {s t : State} (h : s.OnlyMemory t) (k : SwitchKind) (d : Descriptor) :
    t.linkCells k d = s.linkCells k d := by
  simp only [State.linkCells, h.physical, h.gdtr, h.tr]

theorem State.OnlyMemory.oldTask {s t : State} (h : s.OnlyMemory t) : t.oldTask = s.oldTask := by
  simp only [State.oldTask, h.gdtr, h.tr]

/-- Only the words of the outgoing task, the marks and the link are written before the new task is loaded. -/
theorem State.sameMemory_linked (s : State) (k : SwitchKind) (rip : Word) (t : Descriptor) :
    s.SameMemory ((s.saveTask k rip).linkTasks k t) (s.savedCells ++ s.linkCells k t) := by
  have hlink := sameMemory_linkTasks (s.saveTask k rip) k t
  rw [(OnlyMemory.saveTask s k rip).linkCells] at hlink
  exact (s.sameMemory_saveTask k rip).trans hlink

theorem State.taskDescriptors_eq (u : State) :
    u.taskDescriptors = u.markOf (u.seg .cs).sel ++ u.markOf (u.seg .ss).sel ++ u.markOf (u.seg .ds).sel ++
      u.markOf (u.seg .es).sel := by
  have hcons (sel : Word) (rest : List Word) :
      ((sel :: rest).filterMap u.descriptorAddr).map (fun a => u.physical (a + 5)) =
        u.markOf sel ++ (rest.filterMap u.descriptorAddr).map (fun a => u.physical (a + 5)) := by
    cases hsel : u.descriptorAddr sel <;> simp [markOf, hsel]
  simp only [taskDescriptors, hcons, List.filterMap_nil, List.map_nil, List.append_nil, List.append_assoc, seg]

section
variable {s : State} (hm : Memory.wf s.mem = true) {k : SwitchKind} {rip : Word} {t : Descriptor}
include hm

/-- The back link, after the outgoing task is saved. -/
theorem State.readWord_linked (hk : k = .call ∨ k = .int) (hlow : s.isRam (s.physical t.base) = true)
    (hhigh : s.isRam (s.physical (t.base + 1)) = true) :
    ((s.saveTask k rip).linkTasks k t).readWord t.base = s.tr.sel := by
  have hp := OnlyMemory.saveTask s k rip
  rw [← hp.isRam, ← hp.physical] at hlow hhigh
  exact (readWord_linkTasks (saveTask_wf hm k rip) hk hlow hhigh).trans (congrArg TaskReg.sel hp.tr)

variable (hpe : s.msw.pe = true)
include hpe

/-- The busy mark of the incoming task, after the outgoing task is saved. -/
theorem State.readByte_linked_new (hk : k ≠ .iret) (hram : s.isRam (s.physical (t.addr + 5)) = true)
    (hlink : k = .jmp ∨ (t.addr + 5 ≠ t.base ∧ t.addr + 5 ≠ t.base + 1)) :
    ((s.saveTask k rip).linkTasks k t).readByte (t.addr + 5) =
      ((s.saveTask k rip).readByte (t.addr + 5) &&& 0xF0) ||| 3 := by
  have hp := OnlyMemory.saveTask s k rip
  rw [← hp.isRam, ← hp.physical] at hram
  exact readByte_linkTasks_new (saveTask_wf hm k rip) ((congrArg Msw.pe hp.msw).trans hpe) hk hram hlink

/-- The mark of the outgoing task, after it is saved. -/
theorem State.readByte_linked_old (hk : k = .jmp ∨ k = .iret) (hram : s.isRam (s.physical (s.oldTask + 5)) = true)
    (hne : k = .jmp → s.oldTask ≠ t.addr) :
    ((s.saveTask k rip).linkTasks k t).readByte (s.oldTask + 5) =
      ((s.saveTask k rip).readByte (s.oldTask + 5) &&& 0xF0) ||| 1 := by
  have hp := OnlyMemory.saveTask s k rip
  rw [← hp.isRam, ← hp.physical] at hram
  rw [← hp.oldTask] at hram hne ⊢
  exact readByte_linkTasks_old (saveTask_wf hm k rip) ((congrArg Msw.pe hp.msw).trans hpe) hk hram hne

end

end Sys2Proof.Machine

/-! The tests before a task switch, and the four ways into one (45_protected_transfer.md R393, R394, R403,
60_exceptions.md R533). -/

namespace Sys2Proof.Machine

/-! The tests the switch itself makes first (45_protected_transfer.md R411). -/

section
variable (k : SwitchKind) (tsel rip : Word) (s : State) {t : Descriptor}

theorem taskSwitch_absent (hp : t.present = false) :
    taskSwitch k tsel t rip s = .error (notPresent (errSel tsel)) s := bind_error (require_false hp)

theorem taskSwitch_short (hp : t.present = true) (hl : t.limit.toNat < 0x2B) :
    taskSwitch k tsel t rip s = .error (invalidTss (errSel tsel)) s :=
  (bind_ok (require_true hp)).trans (bind_error (require_false (decide_eq_false (Nat.not_le.mpr hl))))

end

/-! By the selector of a TSS. -/

section
variable (k : SwitchKind) {t : Descriptor} {sel : Word} {s : State}

theorem switchByTss_denied (h : selectorTi sel = true ∨ ¬max s.cpl (selectorRpl sel) ≤ t.dpl) :
    switchByTss k t sel s = .error (generalProtection (errSel sel)) s := by
  cases hti : selectorTi sel with
  | true => exact bind_error (require_false (by simp [hti]))
  | false =>
    refine (bind_ok (require_true (by simp [hti]))).trans (bind_error (require_false (decide_eq_false ?_)))
    exact h.resolve_left (by simp [hti])

theorem switchByTss_eq (hti : selectorTi sel = false) (hl : max s.cpl (selectorRpl sel) ≤ t.dpl) :
    switchByTss k t sel s = taskSwitch k sel t s.ip s :=
  (bind_ok (require_true (by simp [hti]))).trans (bind_ok (require_true (decide_eq_true hl)))

end

/-! By a task gate. -/

/-- Of the three ways in which a selector names no descriptor of the GDT, what the first test leaves. -/
theorem outside_of_missing {s : State} {sel : Word}
    (h : sel &&& 0xFFFC = 0 ∨ selectorTi sel = true ∨ s.descriptorAddr sel = none)
    (hgdt : (!isNull sel && !selectorTi sel) = true) : s.descriptorAddr sel = none := by
  rw [Bool.and_eq_true, Bool.not_eq_true', Bool.not_eq_true'] at hgdt
  rcases h with hnull | hti | hnone
  · exact absurd ((isNull_iff sel).mpr hnull) (by simp [hgdt.1])
  · exact absurd hti (by simp [hgdt.2])
  · exact hnone

section
variable {g : Descriptor} {s : State}

theorem taskGateTarget_missing
    (h : g.gateSelector &&& 0xFFFC = 0 ∨ selectorTi g.gateSelector = true ∨ s.descriptorAddr g.gateSelector = none) :
    taskGateTarget g s = .error (generalProtection (errSel g.gateSelector)) s := by
  cases hgdt : !isNull g.gateSelector && !selectorTi g.gateSelector with
  | false => exact bind_error (require_false hgdt)
  | true => exact (bind_ok (require_true hgdt)).trans (bind_error (readDescriptor_outside (outside_of_missing h hgdt) _))

theorem taskGateTarget_wrongType {b : Addr} (hn : s.Names g.gateSelector b) (hti : selectorTi g.gateSelector = false)
    (h : (s.descriptorAt b).systemType ≠ some 1) :
    taskGateTarget g s = .error (generalProtection (errSel g.gateSelector)) s :=
  (bind_ok (require_true (by simp [isNull_false hn.1, hti]))).trans <|
    (bind_ok (readDescriptor_named hn _)).trans (bind_error (require_false (beq_false_of_ne h)))

variable (k : SwitchKind) {sel : Word}

theorem switchByGate_denied (hl : ¬max s.cpl (selectorRpl sel) ≤ g.dpl) :
    switchByGate k g sel s = .error (generalProtection (errSel sel)) s := bind_error (require_false (decide_eq_false hl))

variable (hl : max s.cpl (selectorRpl sel) ≤ g.dpl)
include hl

theorem switchByGate_absent (hp : g.present = false) :
    switchByGate k g sel s = .error (notPresent (errSel sel)) s :=
  (bind_ok (require_true (decide_eq_true hl))).trans (bind_error (require_false hp))

theorem switchByGate_eq (hp : g.present = true) :
    switchByGate k g sel s = (taskGateTarget g >>= fun t => do taskSwitch k g.gateSelector t (← look fun s => s.ip)) s :=
  (bind_ok (require_true (decide_eq_true hl))).trans (bind_ok (require_true hp))

end

/-! JMP and CALL. -/

section
variable (f : FarInstr) {s : State} {off sel : Word} {a : Addr} (ha : s.Names sel a)
include ha

theorem FarInstr.effect_tss (htype : (s.descriptorAt a).systemType = some 1) :
    f.effect off sel s = switchByTss f.kind (s.descriptorAt a) sel s := by
  rw [f.effect_named ha, f.byDescriptor_tss htype]

variable (htype : (s.descriptorAt a).systemType = some 5)
include htype

theorem FarInstr.effect_taskGate : f.effect off sel s = switchByGate f.kind (s.descriptorAt a) sel s := by
  rw [f.effect_named ha, f.byDescriptor_taskGate htype]

variable (hl : max s.cpl (selectorRpl sel) ≤ (s.descriptorAt a).dpl) (hp : (s.descriptorAt a).present = true)
include hl hp

theorem FarInstr.effect_targetFails {e : Stop} (h : taskGateTarget (s.descriptorAt a) s = .error e s) :
    f.effect off sel s = .error e s := by
  rw [f.effect_taskGate ha htype, switchByGate_eq f.kind hl hp, bind_error h]

theorem FarInstr.effect_target {t : Descriptor} (h : taskGateTarget (s.descriptorAt a) s = .ok t s) :
    f.effect off sel s = taskSwitch f.kind (s.descriptorAt a).gateSelector t s.ip s := by
  rw [f.effect_taskGate ha htype, switchByGate_eq f.kind hl hp]
  exact bind_ok h

end

/-- JMP and CALL whose effect comes to the switch. -/
theorem switches_of_effect {s : State} {i : Instr} {off sel tsel : Word} {t : Descriptor} (hs : s.InProtected)
    (hi : IsFarJump i s off sel ∨ IsFarCall i s off sel)
    (heff : ∀ f : FarInstr, f.effect off sel s = taskSwitch f.kind tsel t s.ip s) (u : State) :
    (t.present = false → Raises i s 11 (some (tsel &&& 0xFFFC))) ∧
    (t.present = true → t.limit.toNat < 0x2B → Raises i s 10 (some (tsel &&& 0xFFFC))) ∧
    (IsFarJump i s off sel → taskSwitch .jmp tsel t s.ip s = .ok () u → exec i s = .next { u with pfx := noPrefixes }) ∧
    (IsFarCall i s off sel → taskSwitch .call tsel t s.ip s = .ok () u →
      exec i s = .next { u with pfx := noPrefixes }) := by
  obtain ⟨f, hf⟩ := exists_farInstr hs hi
  refine ⟨fun hp => raises_of_settle hf ((heff f).trans (taskSwitch_absent f.kind tsel s.ip s hp)),
    fun hp hl => raises_of_settle hf ((heff f).trans (taskSwitch_short f.kind tsel s.ip s hp hl)),
    fun hj hok => next_of_settle (hj.exec_eq hs) ((heff .jump).trans hok),
    fun hc hok => next_of_settle (hc.exec_eq hs) ((heff .call).trans hok)⟩

/-! Through the IDT. -/

section
variable {s u : State} {v : Byte} (hin : s.InIdt v) (htype : (s.descriptorAt (s.gateAddr v)).systemType = some 5)
  (hp : (s.descriptorAt (s.gateAddr v)).present = true) (rip : Word) {soft : Bool} (err : Option Word)
  (hsoft : soft = true → s.cpl ≤ (s.descriptorAt (s.gateAddr v)).dpl)
include hin htype hp hsoft

/-- Entry through a present task gate. -/
theorem enterProt_taskGate :
    enterProt v rip soft err s = enterTaskGate (s.descriptorAt (s.gateAddr v)) rip err s := by
  have hallowed : (!soft || decide (s.cpl ≤ (s.descriptorAt (s.gateAddr v)).dpl)) = true := by
    cases soft
    · rfl
    · simpa using hsoft rfl
  rw [enterProt_eq rip soft err hin, if_pos ((Descriptor.isIdtGate_iff _).mpr (.inl htype)), if_pos hallowed, if_pos hp,
    if_pos (beq_iff_eq.mpr htype)]

end

/-- Entry through a task gate whose destination fails a test, or whose switch does. -/
theorem entryFails_of_taskGate {s : State} {v x : Byte} {e : Word} (hpe : s.msw.pe = true) (hin : s.InIdt v)
    (htype : (s.descriptorAt (s.gateAddr v)).systemType = some 5) (hp : (s.descriptorAt (s.gateAddr v)).present = true)
    (hs : ∀ rip err, enterTaskGate (s.descriptorAt (s.gateAddr v)) rip err s = .error (.exc x (some e)) s)
    (ht : ∀ rip err, enterTaskGate (s.descriptorAt (s.gateAddr v)) rip err s.endInstruction =
      .error (.exc x (some e)) s.endInstruction) (hx : x ≠ 16 := by decide) : s.EntryFails v x e := by
  constructor
  · intro i hr hi hl
    exact raises_of_enterProt hpe hr hi hx ((enterProt_taskGate hin htype hp s.ip none fun _ => hl).trans (hs s.ip none))
  · intro err
    have hentry := enterProt_taskGate (s := s.endInstruction) hin htype hp s.curIp err (soft := false) (by simp)
    exact doubleFaults_of_enterProt hpe (hentry.trans (ht s.curIp err))

theorem enterTaskGate_switchFails {s : State} {g t : Descriptor} {rip : Word} {e : Stop} (err : Option Word)
    (ht : taskGateTarget g s = .ok t s) (h : taskSwitch .int g.gateSelector t rip s = .error e s) :
    enterTaskGate g rip err s = .error e s := (bind_ok ht).trans (bind_error h)

theorem enterTaskGate_ok {s u : State} {g t : Descriptor} {rip : Word} (ht : taskGateTarget g s = .ok t s)
    (hu : taskSwitch .int g.gateSelector t rip s = .ok () u) : enterTaskGate g rip none s = .ok () u :=
  (bind_ok ht).trans (bind_ok hu)

/-- The error code goes to the stack of the new task. -/
theorem enterTaskGate_error {s u : State} {g t : Descriptor} {rip : Word} (ht : taskGateTarget g s = .ok t s)
    (hu : taskSwitch .int g.gateSelector t rip s = .ok () u) {err : Word} (hroom : u.pushStop (u.reg SP - 2) = none) :
    enterTaskGate g rip (some err) s =
      .ok () ((u.store .ss (u.reg SP - 2) .word err).setReg SP (u.reg SP - 2)).flush := by
  have hpush := push16_eq err u
  rw [hroom] at hpush
  exact (bind_ok ht).trans ((bind_ok hu).trans (bind_ok hpush))

/-! IRET with NT set. -/

theorem returnFromInterrupt_nested {s : State} (hpe : s.msw.pe = true) (hnt : s.flags.nt = true) :
    returnFromInterrupt s = returnToTask s := by
  simp only [returnFromInterrupt, look_bind, hpe, hnt, Bool.not_true, Bool.false_eq_true, ↓reduceIte]

/-- IRET in a nested task. -/
theorem exec_iret_nested {s : State} (hs : s.InProtected) (hnt : s.flags.nt = true) :
    exec .iret s = settle (returnToTask s) := by
  obtain ⟨hpe, hrep, hlock⟩ := hs
  rw [← returnFromInterrupt_nested hpe hnt]
  exact perform_eq hrep hlock

section
variable {s : State} (htop : s.crossesTop s.tr.base 1 = false)
include htop

/-- The selector of the task to return to. -/
theorem readPhysical_backLink : readPhysical s.tr.base s = .ok (s.readWord s.tr.base) s :=
  bind_ok (require_true (by simp [htop]))

/-- The tests of the back link. -/
theorem returnToTask_eq :
    returnToTask s = (do
      let sel := s.readWord s.tr.base
      require (fun _ => !selectorTi sel && !isNull sel) (invalidTss (errSel sel))
      let t ← readDescriptor sel (invalidTss (errSel sel))
      require (fun _ => t.systemType == some 3) (invalidTss (errSel sel))
      require (fun _ => t.present) (notPresent (errSel sel))
      taskSwitch .iret sel t (← look fun s => s.ip)) s := bind_ok (readPhysical_backLink htop)

theorem returnToTask_missing
    (h : s.readWord s.tr.base &&& 0xFFFC = 0 ∨ selectorTi (s.readWord s.tr.base) = true ∨
      s.descriptorAddr (s.readWord s.tr.base) = none) :
    returnToTask s = .error (invalidTss (errSel (s.readWord s.tr.base))) s := by
  rw [returnToTask_eq htop]
  cases hgdt : !selectorTi (s.readWord s.tr.base) && !isNull (s.readWord s.tr.base) with
  | false => exact bind_error (require_false hgdt)
  | true =>
    rw [Bool.and_comm] at hgdt
    have hnone := outside_of_missing h hgdt
    rw [Bool.and_comm] at hgdt
    exact (bind_ok (require_true hgdt)).trans (bind_error (readDescriptor_outside hnone _))

variable {b : Addr} (hn : s.Names (s.readWord s.tr.base) b) (hti : selectorTi (s.readWord s.tr.base) = false)
include hn hti

/-- The back link names a descriptor of the GDT. -/
theorem returnToTask_named :
    returnToTask s = (do
      let sel := s.readWord s.tr.base
      require (fun _ => (s.descriptorAt b).systemType == some 3) (invalidTss (errSel sel))
      require (fun _ => (s.descriptorAt b).present) (notPresent (errSel sel))
      taskSwitch .iret sel (s.descriptorAt b) (← look fun s => s.ip)) s := by
  rw [returnToTask_eq htop]
  exact (bind_ok (require_true (by simp [isNull_false hn.1, hti]))).trans (bind_ok (readDescriptor_named hn _))

theorem returnToTask_wrongType (h : (s.descriptorAt b).systemType ≠ some 3) :
    returnToTask s = .error (invalidTss (errSel (s.readWord s.tr.base))) s :=
  (returnToTask_named htop hn hti).trans (bind_error (require_false (beq_false_of_ne h)))

variable (htype : (s.descriptorAt b).systemType = some 3)
include htype

/-- It is that of a busy TSS. -/
theorem returnToTask_busy :
    returnToTask s = (do
      require (fun _ => (s.descriptorAt b).present) (notPresent (errSel (s.readWord s.tr.base)))
      taskSwitch .iret (s.readWord s.tr.base) (s.descriptorAt b) (← look fun s => s.ip)) s := by
  rw [returnToTask_named htop hn hti]
  exact bind_ok (require_true (beq_iff_eq.mpr htype))

theorem returnToTask_absent (hp : (s.descriptorAt b).present = false) :
    returnToTask s = .error (notPresent (errSel (s.readWord s.tr.base))) s :=
  (returnToTask_busy htop hn hti htype).trans (bind_error (require_false hp))

theorem returnToTask_present (hp : (s.descriptorAt b).present = true) :
    returnToTask s = taskSwitch .iret (s.readWord s.tr.base) (s.descriptorAt b) s.ip s :=
  (returnToTask_busy htop hn hti htype).trans (bind_ok (require_true hp))

end

end Sys2Proof.Machine

/-! The statement about task switches. -/

namespace Sys2Proof.Machine

/-- A switch that completes found the TSS present. -/
theorem present_of_taskSwitch {k : SwitchKind} {tsel rip : Word} {t : Descriptor} {s u : State}
    (h : taskSwitch k tsel t rip s = .ok () u) : t.present = true := (require_bind_eq_ok h).1

/-- The end of an exception entry whose error code was pushed. -/
theorem State.flush_trap_eq (s : State) :
    ({ s.flush with trap := false } : State) = { s with stale := [], realQueue := none, repeating := none, trap := false } :=
  rfl

/-- An exception through a task gate completes. -/
theorem takeException_taskGate {s t : State} {v : Byte} {err : Option Word} (hpe : s.msw.pe = true) (hin : s.InIdt v)
    (htype : (s.descriptorAt (s.gateAddr v)).systemType = some 5) (hp : (s.descriptorAt (s.gateAddr v)).present = true)
    (h : enterTaskGate (s.descriptorAt (s.gateAddr v)) s.curIp err s.endInstruction = .ok () t) :
    takeException v err s = .next { t with trap := false } := by
  have hentry := enterProt_taskGate (s := s.endInstruction) hin htype hp s.curIp err (soft := false) (by simp)
  exact takeException_ok ((enter_protected (s := s.endInstruction) hpe _ _ _ _).trans (hentry.trans h))

/-- Settles O51: a switch that completes is taken apart into its steps; the ways into one end in the switch or in the test
that fails. -/
theorem taskSwitches : Obligations.TaskSwitch := by
  refine ⟨?_, ?_, ?_, ?_, ?_⟩
  · intro s u k tsel rip t h p m old loaded image saved
    obtain ⟨v, ldt, a, b, data, hv, rfl⟩ := taskSwitch_eq_ok h
    have hlinked : s.OnlyMemory m := State.onlyMemory_linked s k rip t
    have hview : m.SameView (m.installTask k tsel t) := m.sameView_installTask k tsel t
    refine ⟨fun hm => ⟨?_, ?_, ?_, ?_, ?_⟩, ?_, ?_, ?_, ?_, ?_, ?_, ?_, ?_, ?_, ?_, ?_, ?_, ?_, ?_, ?_, ?_, ?_⟩
    · exact State.readWord_saveTask hm k rip
    · exact fun hk => State.readWord_linked hm hk
    · exact fun hk hram hlink hpe => State.readByte_linked_new hm hpe hk hram hlink
    · exact fun hk hram hne hpe => State.readByte_linked_old hm hpe hk hram hne
    · exact hv.wf (State.linkTasks_wf (State.saveTask_wf hm k rip) k t)
    · exact hv.field (·.tr) (fun _ _ _ _ _ _ _ => rfl) fun _ => rfl
    · have hmsw : v.msw = m.msw := hv.field (·.msw) (fun _ _ _ _ _ _ _ => rfl) fun _ => rfl
      exact congrArg (fun w : Msw => { w with ts := true }) (hmsw.trans hlinked.msw)
    · exact hv.field (·.ip) (fun _ _ _ _ _ _ _ => rfl) fun _ => rfl
    · exact hv.inLimit
    · exact hv.field (·.flags) (fun _ _ _ _ _ _ _ => rfl) fun _ => rfl
    · exact fun r => (hv.field (·.reg r) (fun _ _ _ _ _ _ _ => rfl) fun _ => rfl).trans (m.reg_installTask k tsel t r)
    · exact hv.sel .es
    · exact hv.sel .cs
    · exact hv.sel .ss
    · exact hv.sel .ds
    · exact hv.ldtSel
    · exact hv.ldtr_eq hview rfl
    · exact ⟨a, b, hv.caches hview fun r => by cases r <;> rfl⟩
    · exact (hv.field (·.gdtr) (fun _ _ _ _ _ _ _ => rfl) fun _ => rfl).trans hlinked.gdtr
    · exact (hv.field (·.idtr) (fun _ _ _ _ _ _ _ => rfl) fun _ => rfl).trans hlinked.idtr
    · exact (hv.field (·.ext) (fun _ _ _ _ _ _ _ => rfl) fun _ => rfl).trans hlinked.ext
    · have hsegments := hv.sameMemory
      rw [← State.taskDescriptors_eq] at hsegments
      exact (s.sameMemory_linked k rip t).trans hsegments
  · intro s u i off sel a hs ha hi d e level switches
    obtain ⟨f, hf⟩ := exists_farInstr hs hi
    refine ⟨fun htype => ⟨fun h => ?_, fun hti hl => ?_⟩, fun htype => ⟨fun hl => ?_, fun hl hp => ?_,
      fun hl hp => ⟨fun h => ?_, fun b hb hti => ⟨fun ht => ?_, fun ht => ?_⟩⟩⟩⟩
    · exact raises_of_settle hf ((f.effect_tss ha htype).trans (switchByTss_denied f.kind h))
    · exact switches_of_effect hs hi (fun f => (f.effect_tss ha htype).trans (switchByTss_eq f.kind hti hl)) u
    · exact raises_of_settle hf ((f.effect_taskGate ha htype).trans (switchByGate_denied f.kind hl))
    · exact raises_of_settle hf ((f.effect_taskGate ha htype).trans (switchByGate_absent f.kind hl hp))
    · exact raises_of_settle hf (f.effect_targetFails ha htype hl hp (taskGateTarget_missing h))
    · exact raises_of_settle hf (f.effect_targetFails ha htype hl hp (taskGateTarget_wrongType hb hti ht))
    · exact switches_of_effect hs hi (fun f => f.effect_target ha htype hl hp (taskGateTarget_ok hb hti ht)) u
  · intro s v hpe hin g tsel te htype hp
    refine ⟨fun h => ?_, fun b hb hti => ⟨fun ht => ?_, fun ht hpt => ?_, fun ht hpt hl => ?_⟩⟩
    · exact entryFails_of_taskGate hpe hin htype hp (fun rip err => bind_error (taskGateTarget_missing h))
        fun rip err => bind_error (taskGateTarget_missing (s := s.endInstruction) h)
    · exact entryFails_of_taskGate hpe hin htype hp (fun rip err => bind_error (taskGateTarget_wrongType hb hti ht))
        fun rip err => bind_error (taskGateTarget_wrongType (s := s.endInstruction) hb hti ht)
    · have htarget := taskGateTarget_ok (s := s.endInstruction) hb hti ht
      exact entryFails_of_taskGate hpe hin htype hp
        (fun rip err => enterTaskGate_switchFails err (taskGateTarget_ok hb hti ht) (taskSwitch_absent .int tsel rip s hpt))
        fun rip err => enterTaskGate_switchFails err htarget (taskSwitch_absent .int tsel rip _ hpt)
    · have htarget := taskGateTarget_ok (s := s.endInstruction) hb hti ht
      exact entryFails_of_taskGate hpe hin htype hp
        (fun rip err => enterTaskGate_switchFails err (taskGateTarget_ok hb hti ht) (taskSwitch_short .int tsel rip s hpt hl))
        fun rip err => enterTaskGate_switchFails err htarget (taskSwitch_short .int tsel rip _ hpt hl)
  · intro s u v b hpe hgate tsel t
    obtain ⟨hlimit, htop, htype, hp, hb, hti, ht⟩ := hgate
    refine ⟨fun i hs hi hl hok => ?_, fun hok => ⟨?_, fun err hroom => ?_⟩⟩
    · exact hi.exec_ok hpe hs ((enterProt_taskGate ⟨hlimit, htop⟩ htype hp s.ip none fun _ => hl).trans
        (enterTaskGate_ok (taskGateTarget_ok hb hti ht) hok))
    · exact takeException_taskGate hpe ⟨hlimit, htop⟩ htype hp
        (enterTaskGate_ok (taskGateTarget_ok (s := s.endInstruction) hb hti ht) hok)
    · rw [takeException_taskGate hpe ⟨hlimit, htop⟩ htype hp
        (enterTaskGate_error (taskGateTarget_ok (s := s.endInstruction) hb hti ht) hok hroom), State.flush_trap_eq]
  · intro s u hs hnt htop tsel e
    have hexec := exec_iret_nested hs hnt
    refine ⟨fun h => ?_, fun b hb hti => ⟨fun ht => ?_, fun ht hp => ?_, fun ht hp hl => ?_, fun ht hok => ?_⟩⟩
    · exact raises_of_settle hexec (returnToTask_missing htop h)
    · exact raises_of_settle hexec (returnToTask_wrongType htop hb hti ht)
    · exact raises_of_settle hexec (returnToTask_absent htop hb hti ht hp)
    · exact raises_of_settle hexec
        ((returnToTask_present htop hb hti ht hp).trans (taskSwitch_short .iret tsel s.ip s hp hl))
    · exact next_of_settle hexec ((returnToTask_present htop hb hti ht (present_of_taskSwitch hok)).trans hok)

end Sys2Proof.Machine

/-! HLT, halt and shutdown, WAIT, and ESC with its operand words (46_processor_control.md R428, R432, R433, R435,
60_exceptions.md R502, R519, R544, R545). -/

namespace Sys2Proof.Machine

/-! HLT, halt and shutdown. -/

theorem requireCpl0_ok {s : State} (h : s.cpl = 0) : requireCpl0 s = .ok () s := require_true (by simp [h])

theorem hlt_halts {s : State} (hs : s.Ready) (hcpl : s.cpl = 0) :
    exec .hlt s = .next (State.endInstruction { s with halted := true, bus := .halt :: s.bus }) :=
  hs.completes rfl (bind_ok (requireCpl0_ok hcpl))

theorem step_resting {s : State} (hreset : s.pins.reset = false) (hlen : s.pfx.len = 0) (hevent : s.event = none)
    (hrest : s.halted = true ∨ s.shutdown = true) : step s = .next s := by
  simp [step, hreset, hlen, hevent, hrest]

/-- Settles O50: HLT is one update after its test, and a machine at rest has no branch of the step left but to stay. -/
theorem haltAndShutdown : Obligations.HaltAndShutdown := fun _ => ⟨hlt_halts, step_resting⟩

/-! The instructions of the processor extension. -/

/-- Vector 16 alone is taken as an external interrupt (60_exceptions.md R529; log entry 41). -/
theorem State.Ready.interrupts {i : Instr} {m : M Unit} {s : State} (hs : s.Ready) (hi : exec i s = perform m s)
    (hm : m s = .error extError s) : exec i s = takeInterrupt 16 s.curIp true s := by
  rw [hi, perform_eq hs.1 hs.2, hm]
  rfl

/-- The test of TS and MP that WAIT begins with, where it passes. -/
theorem waitTest_ok {s : State} (h : s.msw.ts = false ∨ s.msw.mp = false) :
    require (fun s => !(s.msw.ts && s.msw.mp)) extNotAvailable s = .ok () s :=
  require_true (by rcases h with h | h <;> simp [h])

section
variable {s : State} (hs : s.Ready)
include hs

/-! WAIT. -/

theorem wait_unavailable (hts : s.msw.ts = true) (hmp : s.msw.mp = true) : Raises .wait s 7 none :=
  hs.raises rfl (by decide) (bind_error (require_false (by simp [hts, hmp])))

section
variable (havailable : s.msw.ts = false ∨ s.msw.mp = false)
include havailable

theorem wait_busy (hbusy : s.pins.busy = true) : exec .wait s = .next s.stall.endInstruction := by
  refine hs.completes rfl ((bind_ok (waitTest_ok havailable)).trans ?_)
  rw [if_pos hbusy, update_apply]

/-- With BUSY inactive WAIT is its test of ERROR. -/
theorem exec_wait_idle (hbusy : s.pins.busy = false) :
    exec .wait s = perform (require (fun s => !s.pins.error) extError) s := by
  refine (perform_eq hs.1 hs.2).trans (Eq.trans ?_ (perform_eq hs.1 hs.2).symm)
  rw [bind_ok (waitTest_ok havailable), hbusy, if_neg Bool.false_ne_true]

theorem wait_error (hbusy : s.pins.busy = false) (herror : s.pins.error = true) :
    exec .wait s = takeInterrupt 16 s.curIp true s :=
  hs.interrupts (exec_wait_idle hs havailable hbusy) (require_false (by simp [herror]))

theorem wait_idle (hbusy : s.pins.busy = false) (herror : s.pins.error = false) : DoesNothing .wait s :=
  hs.completes (exec_wait_idle hs havailable hbusy) (require_true (by simp [herror]))

end

/-! ESC. -/

theorem esc_unavailable (ttt lll : BitVec 3) (rm : Rm) (h : s.msw.em = true ∨ s.msw.ts = true) :
    Raises (.esc ttt lll rm) s 7 none :=
  hs.raises rfl (by decide) (bind_error (require_false (by rcases h with h | h <;> simp [h])))

/-- ESC whose tests pass hands its operand over. -/
theorem esc_escapes {ttt lll : BitVec 3} {rm : Rm} (hem : s.msw.em = false) (hts : s.msw.ts = false)
    (haccess : s.escStop ttt lll rm = none) (hbusy : s.pins.busy = false) (herror : s.pins.error = false) :
    exec (.esc ttt lll rm) s = .next (s.escape ttt lll rm).endInstruction := by
  refine hs.completes rfl ((bind_ok (require_true (by simp [hem, hts]))).trans ?_)
  rw [bind_ok (check_none haccess)]
  simp only [hbusy, Bool.false_and, Bool.false_eq_true, ↓reduceIte]
  exact bind_ok (require_true (by simp [herror]))

end

/-! The operand words. -/

namespace State

/-- One request of the processor extension is answered (46_processor_control.md R435). -/
def answered (s : State) : State := { s with pins := { s.pins with pereq := s.pins.pereq - 1 } }

/-- The operand word stored where the processor extension writes memory: a free value (log entry 25). -/
def operandStored (s : State) (o : ExtOperand) : State :=
  if o.toMemory then s.storeVia o.segment (BitVec.ofNat 16 o.off) .word (Config.freeWord s.free) else s

@[simp] theorem operandStored_regs (s : State) (o : ExtOperand) : (s.operandStored o).regs = s.regs := by
  unfold operandStored; split <;> simp

@[simp] theorem operandStored_flags (s : State) (o : ExtOperand) : (s.operandStored o).flags = s.flags := by
  unfold operandStored; split <;> simp

@[simp] theorem operandStored_ip (s : State) (o : ExtOperand) : (s.operandStored o).ip = s.ip := by
  unfold operandStored; split <;> simp

@[simp] theorem operandStored_pins (s : State) (o : ExtOperand) : (s.operandStored o).pins = s.pins := by
  unfold operandStored; split <;> simp

theorem sameMemory_operandStored (s : State) (o : ExtOperand) : s.SameMemory (s.operandStored o)
    (if o.toMemory then s.cells o.segment (BitVec.ofNat 16 o.off) .word else []) := by
  unfold operandStored
  split
  · exact s.sameMemory_storeVia _ _ _ _
  · exact fun _ _ => rfl

theorem transferOperand_ok {s : State} {o : ExtOperand} (h : s.operandStop o = none) :
    s.transferOperand o = .next { s.answered.operandStored o with
      ext := some { o with off := o.off + 2 }
      free := s.free + 1
      bus := .operandWord (BitVec.ofNat 16 o.off) o.toMemory
        (if o.toMemory then Config.freeWord s.free else s.loadVia o.segment (BitVec.ofNat 16 o.off) .word) ::
          s.bus } := by
  unfold transferOperand operandStored
  rw [h]
  cases o.toMemory <;> rfl

/-- A word that may not be transferred leaves the segment overrun pending, in shutdown the service inhibited
(60_exceptions.md R519). -/
theorem transferOperand_exc {s : State} {o : ExtOperand} {v : Byte} {err : Option Word}
    (h : s.operandStop o = some (.exc v err)) :
    s.transferOperand o = .next { s.answered with
      ext := none
      overrunPending := s.overrunPending || !s.shutdown
      pereqInhibited := s.pereqInhibited || s.shutdown } := by
  unfold transferOperand
  rw [h]
  rfl

theorem operandStop_beyond {s : State} {o : ExtOperand} (h : 0xFFFF ≤ o.off) :
    s.operandStop o = some (generalProtection 0) := if_pos h

theorem operandStop_within {s : State} {o : ExtOperand} (h : o.off < 0xFFFF) :
    s.operandStop o = segmentStop s o.segment false (BitVec.ofNat 16 o.off) .word o.toMemory := if_neg (by omega)

/-- Where the word lies beyond offset 0xFFFF or its segment raises an exception, the transfer stops with one. -/
theorem operandStop_exc {s : State} {o : ExtOperand} (h : 0xFFFF ≤ o.off ∨
      ∃ v err, segmentStop s o.segment false (BitVec.ofNat 16 o.off) .word o.toMemory = some (.exc v err)) :
    ∃ v err, s.operandStop o = some (.exc v err) := by
  rcases Nat.lt_or_ge o.off 0xFFFF with hwithin | hbeyond
  · rw [operandStop_within hwithin]
    exact h.resolve_left (by omega)
  · exact ⟨13, some 0, operandStop_beyond hbeyond⟩

end State

theorem step_event {s : State} {e : Event} (hreset : s.pins.reset = false) (hlen : s.pfx.len = 0)
    (he : s.event = some e) : step s = takeEvent e s := by
  simp [step, hreset, hlen, he]

theorem step_operand {s : State} {o : ExtOperand} (hreset : s.pins.reset = false) (hlen : s.pfx.len = 0)
    (he : s.event = some .operand) (ho : s.ext = some o) :
    step s = State.transferOperand { s with curIp := s.ip, ticks := s.ticks + 1 } o := by
  rw [step_event hreset hlen he]
  simp only [takeEvent, ho]

/-- Settles O55: WAIT and ESC by their tests in order, an operand word by whether its access is allowed. -/
theorem waitAndEscape : Obligations.WaitAndEscape := by
  refine ⟨fun s hs => ⟨wait_unavailable hs, fun h => ?_⟩, fun s ttt lll rm hs => ⟨esc_unavailable hs ttt lll rm, ?_⟩,
    fun s o hreset hlen he ho => ?_⟩
  · exact ⟨wait_busy hs h, wait_error hs h, wait_idle hs h⟩
  · intro hem hts haccess hbusy herror
    have hexec := esc_escapes hs hem hts haccess hbusy herror
    refine ⟨?_, ?_⟩
    · rintro r rfl
      exact hexec
    · rintro m rfl
      exact hexec
  · let begun : State := { s with curIp := s.ip, ticks := s.ticks + 1 }
    have hstep : step s = begun.transferOperand o := step_operand hreset hlen he ho
    refine ⟨fun h => ?_, fun hoff hallowed => ?_⟩
    · obtain ⟨v, err, hstop⟩ := State.operandStop_exc (s := begun) h
      exact hstep.trans (State.transferOperand_exc hstop)
    · have hstop : begun.operandStop o = none := (State.operandStop_within hoff).trans hallowed
      refine ⟨_, hstep.trans (State.transferOperand_ok hstop), rfl, ?_, ?_, ?_, ?_, ?_⟩
      · exact begun.answered.operandStored_regs o
      · exact begun.answered.operandStored_flags o
      · exact begun.answered.operandStored_ip o
      · exact begun.answered.operandStored_pins o
      · exact begun.answered.sameMemory_operandStored o

end Sys2Proof.Machine

/-! What no effect but those of LGDT and LIDT does: write GDTR or IDTR (60_exceptions.md R560, 47_protection_control.md
R440, R442), or come to owe a single-step trap (60_exceptions.md R507). LGDT and LIDT stop at a CPL other than 0. -/

namespace Sys2Proof.Machine

/-- GDTR and IDTR. -/
def State.tables (s : State) : TableReg × TableReg := (s.gdtr, s.idtr)

/-- GDTR, IDTR and whether a single-step trap is owed. -/
def State.watched (s : State) : TableReg × TableReg × Bool := (s.gdtr, s.idtr, s.trap)

/-- GDTR and IDTR are as before, and no single-step trap comes to be owed. -/
structure State.Quiet (s t : State) : Prop where
  tables : t.tables = s.tables
  trap : s.trap = false → t.trap = false

namespace State.Quiet

variable {s t u : State}

theorem of_watched (h : t.watched = s.watched) : s.Quiet t := by
  simp only [State.watched, Prod.mk.injEq] at h
  obtain ⟨hgdtr, hidtr, htrap⟩ := h
  exact ⟨by simp [State.tables, hgdtr, hidtr], fun hs => htrap.trans hs⟩

theorem refl (s : State) : s.Quiet s := of_watched rfl

theorem trans (h : s.Quiet t) (k : t.Quiet u) : s.Quiet u := ⟨k.tables.trans h.tables, k.trap ∘ h.trap⟩

end State.Quiet

/-! Updates made of others. -/

@[simp] theorem State.watched_freeFrame (s : State) (t : Word) (n count : Nat) :
    (s.freeFrame t n count).watched = s.watched := by
  induction count generalizing s t n with
  | zero => rfl
  | succ k ih => exact (ih _ _ _).trans (by simp [watched])

@[simp] theorem State.watched_freeStackWords (s : State) (t : Word) (n count : Nat) :
    (s.freeStackWords t n count).watched = s.watched := by
  induction count generalizing s t n with
  | zero => rfl
  | succ k ih => exact (ih _ _ _).trans (by simp [watched, freeStackWord])

@[simp] theorem State.watched_popSlots (s : State) (sp : Word) (count : Nat) :
    (s.popSlots sp count).watched = s.watched := by
  induction count with
  | zero => rfl
  | succ k ih =>
    unfold popSlots
    split
    · exact ih
    · exact ih

@[simp] theorem State.watched_freeSlots (s : State) (n count : Nat) : (s.freeSlots n count).watched = s.watched := by
  induction count with
  | zero => rfl
  | succ k ih =>
    unfold freeSlots
    split
    · exact ih
    · exact ih

theorem State.watched_writeWords (s : State) (a : Addr) (words : List Word) :
    (s.writeWords a words).watched = s.watched := by
  induction words generalizing s a with
  | nil => rfl
  | cons v rest ih => exact ih (s.writeWord a v) (a + 2)

theorem State.watched_storeTable (s : State) (m : MemOp) (t : TableReg) (n : Nat) :
    (s.storeTable m t n).watched = s.watched := by simp [watched, storeTable]

theorem State.watched_testPassed (s : State) (d : Descriptor) : (s.testPassed d).watched = s.watched := by
  unfold testPassed
  split
  · simp [watched, setZf]
  · rfl

/-- The incoming task brings an LDT of its own, but no GDT and no IDT (45_protected_transfer.md R413). -/
theorem State.watched_installTask (s : State) (k : SwitchKind) (rip tsel : Word) (t : Descriptor) :
    (((s.saveTask k rip).linkTasks k t).installTask k tsel t).watched = s.watched := by
  calc _ = ((s.saveTask k rip).linkTasks k t).watched := rfl
    _ = (s.saveTask k rip).watched := by cases k <;> simp [watched, linkTasks, setSystemType]
    _ = s.watched := s.watched_writeWords _ _

theorem State.watched_escape (s : State) (ttt lll : BitVec 3) (rm : Rm) :
    (s.escape ttt lll rm).watched = s.watched := by
  cases rm <;> rfl

theorem State.watched_ascii (s : State) (al ah : Byte) (n : Nat) : (s.ascii al ah n).watched = s.watched := by
  unfold ascii
  split
  · rfl
  · simp [watched]

theorem State.watched_decimal (s : State) (al : Byte) (n : Nat) : (s.decimal al n).watched = s.watched := by
  simp [watched, decimal]

/-- The decimal adjustments, whether their result is free or not. -/
theorem State.watched_adjust (s : State) {p : Prop} [Decidable p] {high : Bool} {n : Nat} {t : State}
    (h : t.watched = s.watched) : (if p then s.freeAdjust high n else t).watched = s.watched := by
  split
  · rfl
  · exact h

/-- An iteration owes a trap only where its instruction does. -/
theorem State.quiet_nextIteration (s : State) (i : Instr) : s.Quiet (s.nextIteration i) :=
  ⟨rfl, fun h => by simp [nextIteration, h]⟩

theorem State.quiet_stall (s : State) : s.Quiet s.stall := ⟨rfl, fun _ => rfl⟩

/-! Effects. -/

/-- An effect leaves GDTR and IDTR and owes no new single-step trap, also where it stops early. -/
def IsQuiet {α : Type} (m : M α) : Prop := ∀ s : State, s.Quiet (endState (m s))

section
variable {α β : Type}

namespace IsQuiet

theorem ok {m : M α} (h : IsQuiet m) {s t : State} {a : α} (ht : m s = .ok a t) : s.Quiet t := by
  simpa [ht, endState] using h s

theorem error {m : M α} (h : IsQuiet m) {s t : State} {e : Stop} (ht : m s = .error e t) : s.Quiet t := by
  simpa [ht, endState] using h s

theorem bind {m : M α} {f : α → M β} (hm : IsQuiet m) (hf : ∀ a, IsQuiet (f a)) : IsQuiet (m >>= f) := by
  intro s
  rw [bind_apply]
  cases h : m s with
  | ok a t => exact (hm.ok h).trans (hf a t)
  | error e t => exact hm.error h

theorem pure (a : α) : IsQuiet (pure a : M α) := .refl

theorem look (f : State → α) : IsQuiet (look f) := .refl

theorem stop (e : Stop) : IsQuiet (stop e : M α) := .refl

/-- An update of anything else: most are updates of registers, flags, segments and memory. -/
theorem update {g : State → State} (h : ∀ s, (g s).watched = s.watched := by intro s; simp [State.watched]) :
    IsQuiet (update g) := fun s => .of_watched (h s)

theorem updateQuiet {g : State → State} (h : ∀ s : State, s.Quiet (g s)) : IsQuiet (Machine.update g) := h

theorem require (p : State → Bool) (e : Stop) : IsQuiet (require p e) := by
  intro s
  unfold Machine.require
  split <;> exact .refl s

theorem check (p : State → Option Stop) : IsQuiet (check p) := by
  intro s
  unfold Machine.check
  split <;> exact .refl s

theorem ite {p : Prop} [Decidable p] {m n : M α} (hm : IsQuiet m) (hn : IsQuiet n) :
    IsQuiet (if p then m else n) := by
  split
  · exact hm
  · exact hn

theorem requireThen {p : State → Bool} {e : Stop} {m : M α} (h : IsQuiet m) :
    IsQuiet (Machine.require p e >>= fun _ => m) := bind (require p e) fun _ => h

theorem checkThen {p : State → Option Stop} {m : M α} (h : IsQuiet m) :
    IsQuiet (Machine.check p >>= fun _ => m) := bind (check p) fun _ => h

theorem lookThen {g : State → α} {f : α → M β} (h : ∀ a, IsQuiet (f a)) : IsQuiet (Machine.look g >>= f) :=
  bind (look g) h

theorem drawThen {k : Nat} {f : Nat → M β} (h : ∀ n, IsQuiet (f n)) : IsQuiet (draw k >>= f) :=
  bind (fun _ => .of_watched rfl) h

/-! The named operations (20_memory.md). -/

theorem segRead (r : SReg) (off : Word) (w : Width) : IsQuiet (segRead r off w) := .checkThen (.look _)

theorem readRm (rm : Rm) (w : Width) : IsQuiet (readRm rm w) := .checkThen (.look _)

theorem writeRm (rm : Rm) (w : Width) (v : BitVec w.bits) : IsQuiet (writeRm rm w v) := .checkThen .update

theorem readPointer (m : MemOp) : IsQuiet (readPointer m) := .checkThen (.look _)

theorem readDescriptorAt (a : Addr) : IsQuiet (readDescriptorAt a) := .requireThen (.look _)

theorem readDescriptor (sel : Word) (miss : Stop) : IsQuiet (readDescriptor sel miss) := by
  refine .lookThen fun a => ?_
  cases a with
  | none => exact .stop miss
  | some a => exact .readDescriptorAt a

theorem readPhysical (f : State → Addr) : IsQuiet (do readPhysical (← Machine.look f)) :=
  .lookThen fun _ => .requireThen (.look _)

theorem push16 (v : Word) : IsQuiet (push16 v) := .checkThen .update

theorem readTop (f : State → Word) : IsQuiet (do Machine.segRead .ss (← Machine.look f) .word) :=
  .lookThen fun a => .segRead .ss a .word

theorem requireStack (count : Nat) : IsQuiet (requireStack count) := by
  intro s
  unfold Machine.requireStack
  split
  · exact .of_watched (State.watched_freeFrame { s with free := s.free + count } _ _ _)
  · exact .refl s

theorem ioRead (port : Word) (w : Width) : IsQuiet (ioRead port w) :=
  .drawThen fun _ => .bind .update fun _ => .pure _

theorem loadFrom (r : SReg) (sel : Word) (d : Descriptor) : IsQuiet (Machine.update fun s => s.loadFrom r sel d) :=
  .update fun s => by simp [State.watched, State.loadFrom]

theorem loadSeg (r : SReg) (sel : Word) : IsQuiet (loadSeg r sel) :=
  .lookThen fun _ => .ite .update <| .ite
    (.requireThen <| .bind (.readDescriptor sel _) fun d => .requireThen <| .requireThen <| .requireThen <|
      .requireThen <| .loadFrom .ss sel d)
    (.ite .update <| .bind (.readDescriptor sel _) fun d => .requireThen <| .requireThen <| .requireThen <|
      .loadFrom r sel d)

/-! Tasks, and entry into a code segment (45_protected_transfer.md). -/

theorem taskLdt (sel : Word) : IsQuiet (taskLdt sel) :=
  .ite (.pure ()) <| .requireThen <| .bind (.readDescriptor sel _) fun _ => .requireThen <| .requireThen .update

theorem taskCs (sel : Word) : IsQuiet (taskCs sel) :=
  .requireThen <| .bind (.readDescriptor sel _) fun d => .requireThen <| .requireThen <| .requireThen <|
    .loadFrom .cs sel d

theorem taskSs (sel : Word) : IsQuiet (taskSs sel) :=
  .requireThen <| .bind (.readDescriptor sel _) fun d => .requireThen <| .requireThen <| .loadFrom .ss sel d

theorem taskData (r : SReg) (sel : Word) : IsQuiet (taskData r sel) :=
  .ite (.pure ()) <| .bind (.readDescriptor sel _) fun d => .requireThen <| .requireThen <| .loadFrom r sel d

theorem validateTask : IsQuiet validateTask :=
  .lookThen fun ldt => .bind (.taskLdt ldt) fun _ => .lookThen fun cs => .bind (.taskCs cs) fun _ =>
  .lookThen fun ss => .bind (.taskSs ss) fun _ => .lookThen fun ds => .bind (.taskData .ds ds) fun _ =>
  .lookThen fun es => .bind (.taskData .es es) fun _ => .require _ _

theorem taskSwitch (k : SwitchKind) (tsel : Word) (t : Descriptor) (rip : Word) :
    IsQuiet (taskSwitch k tsel t rip) :=
  .requireThen <| .requireThen <| .requireThen <| .bind (.update fun s => s.watched_installTask k rip tsel t) fun _ =>
  .bind .validateTask fun _ => .update fun _ => rfl

theorem taskGateTarget (g : Descriptor) : IsQuiet (taskGateTarget g) :=
  .requireThen <| .bind (.readDescriptor _ _) fun t => .requireThen (.pure t)

theorem innerStack (n : Nat) : IsQuiet (innerStack n) :=
  .checkThen <| .bind (.readPhysical _) fun nsp => .bind (.readPhysical _) fun nss =>
  .requireThen <| .bind (.readDescriptor nss _) fun d => .requireThen <| .requireThen <| .requireThen <|
  .pure (nsp, d.toSegReg nss, d)

theorem enterInner (d : Descriptor) (csel eoff : Word) {words : M (List Word)} (h : IsQuiet words) :
    IsQuiet (enterInner d csel eoff words) :=
  .bind (.innerStack _) fun _ => .bind h fun _ => .checkThen <| .requireThen <|
  .update fun s => by simp [State.watched, State.loadFrom]

theorem enterSame (d : Descriptor) (csel eoff : Word) (words : List Word) :
    IsQuiet (enterSame d csel eoff words) :=
  .checkThen <| .requireThen <| .update fun s => by simp [State.watched, State.loadFrom]

/-! Interrupt entry and return (60_exceptions.md). -/

theorem enterVector (v : Byte) (rip : Word) : IsQuiet (enterVector v rip) :=
  .bind (.requireStack 3) fun _ => .requireThen .update

theorem enterReal (v : Byte) (rip : Word) : IsQuiet (enterReal v rip) :=
  .lookThen fun _ => .ite (.enterVector v rip) <| .ite (.stop .shutdown) <|
  .bind (.updateQuiet fun _ => ⟨rfl, fun _ => rfl⟩) fun _ =>
  .lookThen fun ip => .enterVector 8 ip

theorem enterGate (g : Descriptor) (rip : Word) (err : Option Word) : IsQuiet (enterGate g rip err) :=
  .requireThen <| .bind (.readDescriptor _ _) fun d => .requireThen <| .requireThen <| .lookThen fun words =>
  .lookThen fun _ => .ite (.bind (.enterSame d _ _ words) fun _ => .update)
    (.bind (.enterInner d _ _ (.pure words)) fun _ => .update)

theorem enterTaskGate (g : Descriptor) (rip : Word) (err : Option Word) : IsQuiet (enterTaskGate g rip err) := by
  refine .bind (.taskGateTarget g) fun t => .bind (.taskSwitch .int _ t rip) fun _ => ?_
  cases err with
  | none => exact .pure ()
  | some e => exact .bind (.push16 e) fun _ => .update

theorem enterProt (v : Byte) (rip : Word) (soft : Bool) (err : Option Word) : IsQuiet (enterProt v rip soft err) :=
  .requireThen <| .bind (.lookThen fun _ => .readDescriptorAt _) fun g =>
  .requireThen <| .requireThen <| .requireThen <| .ite (.enterTaskGate g rip err) (.enterGate g rip err)

theorem enter (v : Byte) (rip : Word) (soft : Bool) (err : Option Word) : IsQuiet (enter v rip soft err) :=
  .lookThen fun pe => .ite (p := pe = true) (.enterProt v rip soft err) (.enterReal v rip)

theorem softwareInterrupt (v : Byte) : IsQuiet (softwareInterrupt v) := .lookThen fun ip => .enter v ip true none

theorem returnTarget (csel off : Word) : IsQuiet (returnTarget csel off) :=
  .requireThen <| .requireThen <| .bind (.readDescriptor csel _) fun d =>
  .requireThen <| .requireThen <| .requireThen <| .requireThen (.pure d)

theorem outerStack (nss : Word) (n : Nat) : IsQuiet (outerStack nss n) :=
  .requireThen <| .bind (.readDescriptor nss _) fun d => .requireThen <| .requireThen <| .requireThen (.pure d)

theorem returnWithinTask (csel off size imm : Word) : IsQuiet (returnWithinTask csel off size imm) :=
  .bind (.returnTarget csel off) fun _ => .lookThen fun same => .ite (p := same = true)
    (.update fun s => by simp [State.watched, State.loadFrom])
    (.bind (.readTop _) fun _ => .bind (.readTop _) fun nss => .bind (.outerStack nss _) fun _ =>
      .update fun s => by simp [State.watched, State.loadFrom])

theorem returnFromInterrupt : IsQuiet returnFromInterrupt :=
  .lookThen fun pe => .lookThen fun nt => .ite (p := (!pe) = true)
    (.bind (.readTop _) fun _ => .bind (.readTop _) fun _ => .bind (.readTop _) fun _ => .update) <|
  .ite (p := nt = true)
    (.bind (.readPhysical _) fun bsel => .requireThen <| .bind (.readDescriptor bsel _) fun t =>
      .requireThen <| .requireThen <| .lookThen fun ip => .taskSwitch .iret bsel t ip)
    (.bind (.readTop _) fun off => .bind (.readTop _) fun csel => .bind (.readTop _) fun _ => .lookThen fun _ =>
      .bind (.returnWithinTask csel off 6 0) fun _ => .update)

/-! Control transfers (44_control_transfer.md, 45_protected_transfer.md). -/

theorem jumpTo (t : Word) : IsQuiet (jumpTo t) := .requireThen .update

theorem jumpIf (cond : State → Bool) (disp : Byte) : IsQuiet (jumpIf cond disp) :=
  .lookThen fun _ => .lookThen fun t => .ite (.jumpTo t) (.pure ())

theorem loopIf (cond : State → Bool) (disp : Byte) : IsQuiet (loopIf cond disp) :=
  .bind (.jumpIf _ disp) fun _ => .update

theorem callTo (t : Word) : IsQuiet (callTo t) :=
  .requireThen <| .bind (.requireStack 1) fun _ => .lookThen fun ip => .bind (.push16 ip) fun _ => .update

theorem checkCallGate (g : Descriptor) (sel : Word) : IsQuiet (checkCallGate g sel) :=
  .requireThen <| .requireThen <| .requireThen <| .bind (.readDescriptor _ _) fun d =>
  .requireThen <| .requireThen <| .requireThen (.pure d)

theorem readParameters (count : Nat) : IsQuiet (readParameters count) := by
  induction count with
  | zero => exact .pure []
  | succ k ih => exact .bind (.readTop _) fun v => .bind ih fun rest => .pure (v :: rest)

theorem farSegment (f : FarInstr) (d : Descriptor) (sel off : Word) : IsQuiet (f.segment d sel off) := by
  cases f with
  | jump => exact .update fun s => by simp [State.watched, State.loadFrom]
  | call => exact .lookThen fun words => .enterSame d sel off words

theorem farGate (f : FarInstr) (g : Descriptor) (sel : Word) : IsQuiet (f.gate g sel) := by
  cases f with
  | jump =>
    exact .bind (.checkCallGate g sel) fun d => .requireThen <| .requireThen (.farSegment .jump d _ _)
  | call =>
    exact .bind (.checkCallGate g sel) fun d => .lookThen fun _ => .ite (.requireThen (.farSegment .call d _ _))
      (.enterInner d _ _ (.bind (.readParameters _) fun _ => .look _))

/-- JMP and CALL intersegment in protected mode. -/
theorem farEffect (f : FarInstr) (off sel : Word) : IsQuiet (f.effect off sel) := by
  refine .requireThen <| .bind (.readDescriptor sel _) fun d => ?_
  unfold FarInstr.byDescriptor
  cases d.systemType with
  | none =>
    exact .bind (.requireThen <| .requireThen <| .requireThen (.require _ _)) fun _ => .farSegment f d sel off
  | some t =>
    exact .ite (.farGate f d sel) <| .ite
      (.requireThen <| .requireThen <| .bind (.taskGateTarget d) fun t => .lookThen fun ip => .taskSwitch _ _ t ip) <|
      .ite (.requireThen <| .requireThen <| .lookThen fun ip => .taskSwitch _ sel d ip) (.stop _)

theorem jumpFar (off sel : Word) : IsQuiet (jumpFar off sel) :=
  .lookThen fun pe => .ite (p := pe = true) (.farEffect .jump off sel) .update

theorem callFar (off sel : Word) : IsQuiet (callFar off sel) :=
  .lookThen fun pe => .ite (p := pe = true) (.farEffect .call off sel)
    (.bind (.requireStack 2) fun _ => .lookThen fun cs => .bind (.push16 cs) fun _ => .lookThen fun ip =>
      .bind (.push16 ip) fun _ => .update)

theorem returnNear (imm : Word) : IsQuiet (returnNear imm) :=
  .bind (.readTop _) fun _ => .requireThen .update

theorem returnFar (imm : Word) : IsQuiet (returnFar imm) :=
  .bind (.readTop _) fun off => .bind (.readTop _) fun sel => .lookThen fun pe => .ite (p := pe = true)
    (.returnWithinTask sel off 4 imm) .update

/-! The stack (40_data_transfer.md), and ENTER. -/

theorem pushOperand (v : Word) : IsQuiet (pushOperand v) :=
  .lookThen fun _ => .ite
    (.drawThen fun _ => .bind (.update fun s => by simp [State.watched, State.freeStackWord]) fun _ => .stop _)
    (.push16 v)

theorem checkPop : IsQuiet checkPop :=
  .lookThen fun _ => .ite (.drawThen fun _ => .bind .update fun _ => .stop _) (.check _)

theorem pushAllReal : IsQuiet pushAllReal :=
  .lookThen fun sp => .ite
    (.drawThen fun n => .bind
      (.update fun s => (State.watched_freeStackWords _ _ n _).trans (by simp [State.watched])) fun _ => .stop _)
    .update

theorem pushAllProtected : IsQuiet pushAllProtected :=
  .lookThen fun _ => .ite (.checkThen <| .bind .update fun _ => .stop _) (.checkThen .update)

theorem popAllReal : IsQuiet popAllReal :=
  .lookThen fun sp => .ite
    (.drawThen fun n => .bind
      (.update fun s => (State.watched_freeSlots _ n _).trans (s.watched_popSlots sp _)) fun _ => .stop _)
    (.update fun s => s.watched_popSlots sp 8)

theorem popAllProtected : IsQuiet popAllProtected :=
  .lookThen fun sp => .ite
    (.checkThen <| .bind (.update fun s => s.watched_popSlots sp _) fun _ => .stop _)
    (.checkThen <| .update fun s => s.watched_popSlots sp 8)

theorem pushAt (t v : Word) : IsQuiet (pushAt t v) := .checkThen .update

theorem enterLevels (count : Nat) (bp sp : Word) : IsQuiet (enterLevels count bp sp) := by
  induction count generalizing bp sp with
  | zero => exact .pure sp
  | succ k ih => exact .bind (.segRead .ss _ .word) fun v => .bind (.pushAt _ v) fun _ => ih _ _

theorem enterFrames (level : Nat) (bp frame : Word) : IsQuiet (enterFrames level bp frame) := by
  cases level with
  | zero => exact .pure frame
  | succ k => exact .bind (.enterLevels k bp frame) fun sp => .bind (.pushAt _ frame) fun _ => .pure (sp - 2)

theorem allOrNone (count : Nat) {m : M Word} (h : IsQuiet m) : IsQuiet (allOrNone count m) := by
  intro s
  unfold Machine.allOrNone
  cases hm : m s with
  | ok v t => exact h.ok hm
  | error e t =>
    cases e with
    | shutdown => exact .of_watched (State.watched_freeFrame { s with free := s.free + count } _ _ _)
    | exc v err => exact .refl s
    | fault f => exact .refl s
    | refused r => exact .refl s

/-! Arithmetic, logic, strings and ports. -/

theorem aluToRm (w : Width) (rm : Rm) (src : State → BitVec w.bits) (k : Nat) (op : AluOp w.bits) :
    IsQuiet (aluToRm w rm src k op) := .checkThen <| .drawThen fun _ => .update

theorem aluToAcc (w : Width) (v : BitVec w.bits) (k : Nat) (op : AluOp w.bits) : IsQuiet (aluToAcc w v k op) :=
  .drawThen fun _ => .update fun s => by simp [State.watched, State.setAcc]

theorem aluRmReg (w : Width) (d : Dir) (rm : Rm) (r : Reg) (k : Nat) (op : AluOp w.bits) :
    IsQuiet (aluRmReg w d rm r k op) := by
  cases d with
  | toRm => exact .aluToRm w rm _ k op
  | toReg => exact .checkThen <| .drawThen fun _ => .update

theorem aluTest (w : Width) (rm : Rm) (k : Nat) (op : AluOp w.bits) (a b : State → BitVec w.bits) :
    IsQuiet (aluTest w rm k op a b) := .checkThen <| .drawThen fun _ => .update

theorem compareRmReg (w : Width) (d : Dir) (rm : Rm) (r : Reg) : IsQuiet (compareRmReg w d rm r) := by
  cases d <;> exact .aluTest w rm 0 _ _ _

theorem unaryRm (w : Width) (rm : Rm) (op : Flags → BitVec w.bits → BitVec w.bits × Flags) :
    IsQuiet (unaryRm w rm op) := .checkThen .update

theorem shiftRm (op : ShiftOp) (w : Width) (rm : Rm) (count : Byte) : IsQuiet (shiftRm op w rm count) :=
  .checkThen <| .ite (.pure ()) <| .drawThen fun _ => .update

theorem inputFrom (port : Word) (w : Width) : IsQuiet (inputFrom port w) :=
  .requireThen <| .bind (.ioRead port w) fun _ => .update fun s => by simp [State.watched, State.setAcc]

theorem outputTo (port : Word) (w : Width) : IsQuiet (outputTo port w) := .requireThen .update

theorem iterate (i : Instr) (compares z : Bool) {once : M Unit} (h : IsQuiet once) :
    IsQuiet (iterate i compares z once) :=
  .lookThen fun _ => .ite (.pure ()) <| .bind h fun _ => .bind .update fun _ =>
  .lookThen fun _ => .ite (.pure ()) (.updateQuiet fun s => s.quiet_nextIteration i)

/-! Protection control (47_protection_control.md). -/

theorem loadLdtr (sel : Word) : IsQuiet (loadLdtr sel) :=
  .ite .update <| .requireThen <| .bind (.readDescriptor sel _) fun _ => .requireThen <| .requireThen .update

theorem loadTr (sel : Word) : IsQuiet (loadTr sel) :=
  .requireThen <| .bind (.readDescriptor sel _) fun _ => .requireThen <| .requireThen <| .update fun _ => rfl

theorem pointerTest (rm : Rm) (accepts : State → Descriptor → Word → Bool) {result : Descriptor → State → State}
    (h : ∀ (d : Descriptor) (s : State), (result d s).watched = s.watched) :
    IsQuiet (pointerTest rm accepts result) := by
  refine .bind (.readRm rm .word) fun sel => .bind (.lookThen fun a => ?_) fun found => ?_
  · cases a with
    | none => exact .pure none
    | some a => exact .bind (.readDescriptorAt a) fun d => .pure (some d)
  · cases found with
    | none => exact .update fun _ => rfl
    | some d =>
      refine .update fun s => ?_
      split
      · exact (h d _).trans (s.watched_testPassed d)
      · rfl

end IsQuiet
end

/-! Outcomes. -/

/-- A next state has the same GDTR and IDTR. -/
def State.TablesKeptBy (s : State) (o : Host.Outcome State Fault Refusal) : Prop :=
  ∀ t, o = .next t → t.tables = s.tables

namespace State.TablesKeptBy

variable {s : State}

theorem next {t : State} (h : t.tables = s.tables) : s.TablesKeptBy (.next t) := by
  rintro _ ⟨⟩
  exact h

theorem fault (f : Fault) : s.TablesKeptBy (.fault f) := by rintro _ ⟨⟩

theorem refused (r : Refusal) : s.TablesKeptBy (.refused r) := by rintro _ ⟨⟩

theorem of_eq {t : State} {o : Host.Outcome State Fault Refusal} (h : t.tables = s.tables) (ho : t.TablesKeptBy o) :
    s.TablesKeptBy o := fun u hu => (ho u hu).trans h

theorem ite {p : Prop} [Decidable p] {a b : Host.Outcome State Fault Refusal} (ha : s.TablesKeptBy a)
    (hb : s.TablesKeptBy b) : s.TablesKeptBy (if p then a else b) := by
  split
  · exact ha
  · exact hb

/-! Delivery (60_exceptions.md R502, R536, R545). -/

theorem doubleFault (s : State) : s.TablesKeptBy (doubleFault s) := by
  have henter := IsQuiet.enter 8 s.curIp false (some 0)
  unfold Machine.doubleFault
  cases h : enter 8 s.curIp false (some 0) s with
  | ok _ t =>
    have hend : t.tables = s.tables := (henter.ok h).tables
    exact next hend
  | error e t =>
    have hend : t.tables = s.tables := (henter.error h).tables
    cases e with
    | exc v err => exact next hend
    | shutdown => exact next hend
    | fault f => exact fault f
    | refused r => exact refused r

theorem takeException (v : Byte) (err : Option Word) (s : State) : s.TablesKeptBy (takeException v err s) := by
  have henter := IsQuiet.enter v s.curIp false err
  unfold Machine.takeException
  cases h : enter v s.curIp false err s.endInstruction with
  | ok _ t =>
    have hend : t.tables = s.endInstruction.tables := (henter.ok h).tables
    exact next hend
  | error e t =>
    have hend : t.tables = s.endInstruction.tables := (henter.error h).tables
    cases e with
    | exc w err => exact of_eq hend (doubleFault { t with trap := false })
    | shutdown => exact next hend
    | fault f => exact fault f
    | refused r => exact refused r

theorem takeInterrupt (v : Byte) (rip : Word) (external : Bool) (s : State) :
    s.TablesKeptBy (takeInterrupt v rip external s) := by
  have henter := IsQuiet.enter v rip false none
  unfold Machine.takeInterrupt
  cases h : enter v rip false none s.endInstruction with
  | ok _ t =>
    have hend : t.tables = s.endInstruction.tables := (henter.ok h).tables
    exact next hend
  | error e t =>
    have hend : t.tables = s.endInstruction.tables := (henter.error h).tables
    cases e with
    | exc w err => exact of_eq hend (takeException w _ { t with halted := false, shutdown := false })
    | shutdown => exact next hend
    | fault f => exact fault f
    | refused r => exact refused r

theorem settle {r : EStateM.Result Stop State Unit} (h : (endState r).tables = s.tables) :
    s.TablesKeptBy (settle r) := by
  cases r with
  | ok _ t => exact next h
  | error e t =>
    cases e with
    | exc v err => exact of_eq h (.ite (takeInterrupt 16 t.curIp true t) (takeException v err t))
    | shutdown => exact next h
    | fault f => exact fault f
    | refused r => exact refused r

/-- From the effect at hand, whatever it does in other states. -/
theorem perform_of_endState {m : M Unit} (h : (endState (m s)).tables = s.tables) : s.TablesKeptBy (perform m s) :=
  .ite (.ite (settle h) (refused .repeatPrefix)) (settle rfl)

theorem perform {m : M Unit} (h : IsQuiet m) : s.TablesKeptBy (perform m s) := perform_of_endState (h s).tables

theorem performProtected {m : M Unit} (h : IsQuiet m) : s.TablesKeptBy (performProtected m s) :=
  .ite (takeException 6 none s) <| .ite (perform h) <| .ite
    (of_eq (t := { s with free := s.free + 1 }) rfl (takeException 6 none _))
    (of_eq (t := { s.noneDecoded with free := s.free + 1 }) rfl (perform h))

theorem stringInstr {i : Instr} {compares : Bool} {once : M Unit} (h : IsQuiet once) :
    s.TablesKeptBy (stringInstr i compares once s) := by
  unfold Machine.stringInstr
  cases s.pfx.rep with
  | none => exact .ite (settle (h s).tables) (settle rfl)
  | some z => exact .ite (settle (h.iterate i compares z s).tables) (settle rfl)

/-- LGDT and LIDT stop at their first test (47_protection_control.md R440, R442). -/
theorem readTable {m : MemOp} (hcpl : s.cpl ≠ 0) (f : TableReg → M Unit) :
    s.TablesKeptBy (Machine.perform (Machine.readTable m >>= f) s) := by
  refine perform_of_endState ?_
  have hstop : Machine.readTable m s = .error (generalProtection 0) s :=
    bind_error (require_false (by simpa using hcpl))
  rw [bind_error hstop]
  rfl

end State.TablesKeptBy

/-! Every instruction. -/

/-- At a CPL other than 0 no instruction writes GDTR or IDTR. -/
theorem State.tablesKeptBy_exec {s : State} (hcpl : s.cpl ≠ 0) (i : Instr) : s.TablesKeptBy (exec i s) :=
  match i with
  | .lgdt _ | .lidt _ => .readTable hcpl _
  | .sgdt _ | .sidt _ => .perform (.checkThen <| .drawThen fun _ => .update fun s => s.watched_storeTable _ _ _)
  | .movRmReg w rm _ => .perform (.lookThen fun v => .writeRm rm w v)
  | .movRmSreg rm _ | .smsw rm => .perform (.lookThen fun v => .writeRm rm .word v)
  | .sldt rm | .str rm => .performProtected (.lookThen fun v => .writeRm rm .word v)
  | .movRegRm w _ rm => .perform (.bind (.readRm rm w) fun _ => .update)
  | .movRmImm rm _ => .perform (.writeRm rm _ _)
  | .movRegImm _ _ | .xchgAx _ | .lea _ _ | .lahf | .sahf | .cbw | .cwd | .clc | .cmc | .stc | .cld | .std =>
    .perform .update
  | .movAccMem _ _ | .xlat => .perform (.bind (.segRead _ _ _) fun _ => .update fun s => by simp [watched, setAcc])
  | .movMemAcc _ _ => .perform (.checkThen .update)
  | .movSregRm _ rm => .ite (.takeException 6 none s) <| .perform (.bind (.readRm rm .word) fun v =>
      .bind (.loadSeg _ v) fun _ => .update fun _ => rfl)
  | .pushRm rm => .perform (.bind (.readRm rm .word) fun v => .pushOperand v)
  | .pushReg _ | .pushSreg _ | .pushf => .perform (.lookThen fun v => .pushOperand v)
  | .pushImm _ => .perform (.pushOperand _)
  | .pusha => .perform (.ite .pushAllProtected .pushAllReal)
  | .popRm _ => .perform (.bind .checkPop fun _ => .checkThen <| .lookThen fun _ => .update)
  | .popReg _ => .perform (.bind .checkPop fun _ => .lookThen fun _ => .update)
  | .popSreg _ => .ite (.takeException 6 none s) <| .perform (.bind .checkPop fun _ => .lookThen fun v =>
      .bind (.loadSeg _ v) fun _ => .update fun _ => rfl)
  | .popa => .perform (.ite .popAllProtected .popAllReal)
  | .popf => .perform (.bind (.bind (.readTop _) fun v => .bind .update fun _ => .pure v) fun _ => .update)
  | .xchgRmReg _ _ _ => .perform (.checkThen .update)
  | .nop => .perform (.pure ())
  | .inPort w _ | .inDx w => .perform (.inputFrom _ w)
  | .outPort w _ | .outDx w => .perform (.outputTo _ w)
  | .lds _ m | .les _ m => .perform (.bind (.readPointer m) fun _ => .bind (.loadSeg _ _) fun _ => .update)
  | .addRmReg w d rm r | .adcRmReg w d rm r | .subRmReg w d rm r | .sbbRmReg w d rm r | .andRmReg w d rm r
  | .orRmReg w d rm r | .xorRmReg w d rm r => .perform (.aluRmReg w d rm r _ _)
  | .addRmImm rm _ | .adcRmImm rm _ | .subRmImm rm _ | .sbbRmImm rm _ | .andRmImm rm _ | .orRmImm rm _
  | .xorRmImm rm _ => .perform (.aluToRm _ rm _ _ _)
  | .addAccImm _ | .adcAccImm _ | .subAccImm _ | .sbbAccImm _ | .andAccImm _ | .orAccImm _ | .xorAccImm _ =>
    .perform (.aluToAcc _ _ _ _)
  | .cmpRmReg w d rm r => .perform (.compareRmReg w d rm r)
  | .cmpRmImm rm _ | .testRmReg _ rm _ | .testRmImm rm _ => .perform (.aluTest _ rm _ _ _ _)
  | .cmpAccImm _ | .testAccImm _ => .perform (.aluTest _ (.reg 0) _ _ _ _)
  | .incRm w rm | .decRm w rm | .negRm w rm | .notRm w rm => .perform (.unaryRm w rm _)
  | .incReg r | .decReg r => .perform (.unaryRm .word (.reg r) _)
  | .aaa | .aas => .perform (.drawThen fun _ => .update fun s => s.watched_adjust (s.watched_ascii ..))
  | .daa | .das => .perform (.drawThen fun _ => .update fun s => s.watched_adjust (s.watched_decimal ..))
  | .mulRm w rm => .perform (.bind (.readRm rm w) fun _ => .drawThen fun _ => .update fun s => by cases w <;> rfl)
  | .imulRm w rm => .perform (.bind (.readRm rm w) fun _ => .drawThen fun _ => .update fun s => by cases w <;> rfl)
  | .imulRegRmImm _ rm _ => .perform (.bind (.readRm rm .word) fun _ => .drawThen fun _ => .update)
  | .divRm w rm => .perform (.bind (.readRm rm w) fun _ => .requireThen <| .drawThen fun _ =>
      .update fun s => by cases w <;> rfl)
  | .idivRm w rm => .perform (.bind (.readRm rm w) fun _ => .requireThen <| .drawThen fun _ => .requireThen <|
      .update fun s => by cases w <;> rfl)
  | .aam | .aad => .perform (.drawThen fun _ => .update)
  | .rolRm1 w rm | .rorRm1 w rm | .rclRm1 w rm | .rcrRm1 w rm | .shlRm1 w rm | .shrRm1 w rm | .sarRm1 w rm
  | .rolRmCl w rm | .rorRmCl w rm | .rclRmCl w rm | .rcrRmCl w rm | .shlRmCl w rm | .shrRmCl w rm | .sarRmCl w rm
  | .rolRmImm w rm _ | .rorRmImm w rm _ | .rclRmImm w rm _ | .rcrRmImm w rm _ | .shlRmImm w rm _ | .shrRmImm w rm _
  | .sarRmImm w rm _ => .perform (.shiftRm _ w rm _)
  | .movs _ | .cmps _ =>
    .stringInstr (.checkThen <| .checkThen <| .update fun s => by simp [watched, setDest, stepIndex])
  | .scas _ | .lods _ | .stos _ =>
    .stringInstr (.checkThen <| .update fun s => by simp [watched, setDest, setAcc, stepIndex])
  | .ins _ => .stringInstr (.requireThen <| .checkThen <| .bind (.lookThen fun _ => .ioRead _ _) fun _ =>
      .update fun s => by simp [watched, setDest, stepIndex])
  | .outs _ => .stringInstr (.requireThen <| .checkThen <| .update fun _ => rfl)
  | .rep | .repne | .lock | .segOverride _ => .next rfl
  | .jmpShort _ | .jmpNear _ => .perform (.jumpTo _)
  | .jmpRm rm => .perform (.bind (.readRm rm .word) fun t => .jumpTo t)
  | .jmpFar off sel => .perform (.jumpFar off sel)
  | .jmpFarMem m => .perform (.bind (.readPointer m) fun p => .jumpFar p.1 p.2)
  | .callNear _ => .perform (.callTo _)
  | .callRm rm => .perform (.bind (.readRm rm .word) fun t => .callTo t)
  | .callFar off sel => .perform (.callFar off sel)
  | .callFarMem m => .perform (.bind (.readPointer m) fun p => .callFar p.1 p.2)
  | .jo disp | .jno disp | .jb disp | .jnb disp | .je disp | .jne disp | .jbe disp | .jnbe disp | .js disp | .jns disp
  | .jp disp | .jnp disp | .jl disp | .jnl disp | .jle disp | .jnle disp | .jcxz disp => .perform (.jumpIf _ disp)
  | .loop disp | .loopz disp | .loopnz disp => .perform (.loopIf _ disp)
  | .retNear | .retNearImm _ => .perform (.returnNear _)
  | .retFar | .retFarImm _ => .perform (.returnFar _)
  | .enter _ _ => .perform (.bind (.allOrNone _ (.bind (.pushAt _ _) fun _ => .enterFrames _ _ _)) fun _ => .update)
  | .leave => .perform (.bind (.segRead .ss _ .word) fun _ => .update)
  | .bound _ m => .perform (.bind (.readPointer m) fun _ => .require _ _)
  | .intN _ | .int3 => .perform (.softwareInterrupt _)
  | .into => .perform (.ite (.softwareInterrupt 4) (.pure ()))
  | .iret => .perform .returnFromInterrupt
  | .cli | .sti | .hlt | .clts => .perform (.requireThen .update)
  | .wait => .perform (.requireThen <| .ite (.updateQuiet quiet_stall) (.require _ _))
  | .esc ttt lll rm => .perform (.requireThen <| .checkThen <| .ite (.updateQuiet quiet_stall) <| .requireThen <|
      .update fun s => s.watched_escape ttt lll rm)
  | .lldt rm => .performProtected (.requireThen <| .bind (.readRm rm .word) fun sel => .loadLdtr sel)
  | .ltr rm => .performProtected (.requireThen <| .bind (.readRm rm .word) fun sel => .loadTr sel)
  | .lmsw rm => .perform (.requireThen <| .bind (.readRm rm .word) fun _ => .requireThen .update)
  | .verr rm | .verw rm => .performProtected (.pointerTest rm _ fun _ _ => rfl)
  | .lar _ rm | .lsl _ rm => .performProtected (.pointerTest rm _ fun _ _ => rfl)
  | .arpl rm _ => .performProtected (.bind (.readRm rm .word) fun _ => .lookThen fun _ =>
      .ite (.bind (.writeRm rm .word _) fun _ => .update fun _ => rfl) (.update fun _ => rfl))
  | .undefined _ => .takeException 6 none s

/-! The step. -/

theorem State.tablesKeptBy_transferOperand (s : State) (o : ExtOperand) : s.TablesKeptBy (s.transferOperand o) := by
  unfold transferOperand
  dsimp only
  cases s.operandStop o with
  | some e =>
    cases e with
    | fault f => exact .fault f
    | exc v err => exact .next rfl
    | shutdown => exact .next rfl
    | refused r => exact .next rfl
  | none =>
    refine .next ?_
    cases o.toMemory <;> rfl

theorem State.tablesKeptBy_takeEvent (s : State) (e : Event) : s.TablesKeptBy (takeEvent e s) := by
  cases e with
  | singleStep => exact .of_eq rfl (.takeInterrupt 1 s.ip false _)
  | nmi => exact .of_eq rfl (.takeInterrupt 2 s.ip true _)
  | overrun => exact .of_eq rfl (.takeInterrupt 9 s.ip true _)
  | interrupt v => exact .of_eq rfl (.takeInterrupt v s.ip true _)
  | operand =>
    unfold takeEvent
    dsimp only
    cases s.ext with
    | none => exact .next rfl
    | some o => exact .of_eq rfl (tablesKeptBy_transferOperand _ o)

theorem State.tablesKeptBy_runInstruction {s : State} (hcpl : s.cpl ≠ 0) : s.TablesKeptBy (runInstruction s) := by
  cases h : decode s.window with
  | ok i rest =>
    rw [runInstruction_ok h]
    exact .of_eq rfl (tablesKeptBy_exec (s := s.fetched _) hcpl i)
  | badBase =>
    rw [runInstruction_badBase h]
    exact .refused .adjustBase
  | needMore =>
    rw [runInstruction_needMore h]
    exact .ite (.refused .tooLong) (.of_eq rfl (.takeException 13 (some 0) (s.fetched 0)))

theorem State.tablesKeptBy_advance {s : State} (hcpl : s.cpl ≠ 0) : s.TablesKeptBy (advance s) := by
  unfold advance
  cases s.repeating with
  | some r => exact .of_eq rfl (tablesKeptBy_exec (s := s.resumed r) hcpl r.instr)
  | none => exact tablesKeptBy_runInstruction hcpl

theorem State.tablesKeptBy_step {s : State} (hcpl : s.cpl ≠ 0) (h : s.pins.reset = false) :
    s.TablesKeptBy (step s) := by
  unfold step
  rw [if_neg (by simp [h])]
  refine .ite ?_ (tablesKeptBy_runInstruction hcpl)
  cases s.event with
  | some e => exact s.tablesKeptBy_takeEvent e
  | none => exact .ite (.next rfl) (tablesKeptBy_advance hcpl)

/-- Settles O10: of all effects only those of LGDT and LIDT write the two registers, and these begin with the test of
CPL. -/
theorem tablesStayBelowLevelZero : Obligations.TablesStayBelowLevelZero := fun _ t hcpl hreset ht =>
  Prod.mk.inj (State.tablesKeptBy_step hcpl hreset t ht)

end Sys2Proof.Machine

/-! RESET (70_reset_and_hazards.md R600 to R602). -/

namespace Sys2Proof.Machine

/-- Settles O1: the values are those of `State.reset`. -/
theorem resetValues : Obligations.ResetValues := ⟨rfl, rfl, rfl, rfl, rfl, rfl, rfl, rfl, rfl, rfl, rfl⟩

/-- Settles O3: the first test of the step is that of the pin. -/
theorem resetByPin : Obligations.ResetByPin := fun _ h => step_reset h

end Sys2Proof.Machine

/-! LMSW, SMSW and CLTS (47_protection_control.md R448, R449, 46_processor_control.md R434), LGDT, LIDT, SGDT and SIDT
(47_protection_control.md R440 to R443), and the instructions that need CPL 0 or CPL <= IOPL (60_exceptions.md R560,
R561). -/

namespace Sys2Proof.Machine

/-! LMSW. -/

theorem State.entersWithCpl_eq_false_iff (s : State) (v : Word) :
    s.entersWithCpl v = false ↔ s.msw.pe = true ∨ v.getLsbD 0 = false ∨ s.cs.sel.extractLsb' 0 2 = 0 := by
  simp [entersWithCpl, or_assoc, imp_iff_not_or]

/-- The state LMSW leaves: MSW with PE set or as it was, and what may be queued as decoded in real mode. -/
def State.withMsw (s : State) (v : Word) : State :=
  { s with
    msw := { pe := s.msw.pe || v.getLsbD 0, mp := v.getLsbD 1, em := v.getLsbD 2, ts := v.getLsbD 3 }
    realQueue := if s.msw.pe = false ∧ v.getLsbD 0 = true then some { off := s.ip, decoded := true } else s.realQueue }

theorem lmsw_ok {s : State} {rm : Rm} (hs : s.Ready) (hcpl : s.cpl = 0) (hread : s.rmStop rm .word false = none)
    (henters : s.entersWithCpl (s.rmValue rm .word) = false) :
    exec (.lmsw rm) s = .next (s.withMsw (s.rmValue rm .word)).endInstruction := by
  refine hs.completes rfl ((bind_ok (requireCpl0_ok hcpl)).trans ((bind_ok (readRm_ok hread)).trans ?_))
  rw [bind_ok (require_true (by simp [henters])), update_apply]
  simp only [State.withMsw, Msw.load, Bool.and_eq_true, Bool.not_eq_true']

/-- CLTS where the CPL test passes. -/
theorem clts_ok {s : State} (hs : s.Ready) (hcpl : s.cpl = 0) :
    exec .clts s = .next (State.endInstruction { s with msw := { s.msw with ts := false } }) :=
  hs.completes rfl (bind_ok (requireCpl0_ok hcpl))

/-- Settles O56: SMSW is one write of r/m, CLTS and LMSW are one update after their tests. -/
theorem machineStatusWord : Obligations.MachineStatusWord := by
  refine fun s hs => ⟨fun rm h => ?_, fun hcpl => ?_, fun rm hcpl hread => ?_⟩
  · exact hs.writesRm rfl (writeRm_ok h s.msw.image)
  · exact clts_ok hs hcpl
  · intro v henters
    exact lmsw_ok hs hcpl hread ((s.entersWithCpl_eq_false_iff _).mpr henters)

/-! LGDT and LIDT. -/

theorem readTable_ok {s : State} {m : MemOp} (hcpl : s.cpl = 0) (h : s.wordsStop m 3 false = none) :
    readTable m s = .ok (s.tableOperand m) s :=
  (bind_ok (requireCpl0_ok hcpl)).trans (bind_ok (check_none h))

theorem lgdt_ok {s : State} {m : MemOp} (hs : s.Ready) (hcpl : s.cpl = 0) (h : s.wordsStop m 3 false = none) :
    exec (.lgdt m) s = .next (State.endInstruction { s with gdtr := s.tableOperand m }) :=
  hs.completes rfl (bind_ok (readTable_ok hcpl h))

theorem lidt_ok {s : State} {m : MemOp} (hs : s.Ready) (hcpl : s.cpl = 0) (h : s.wordsStop m 3 false = none) :
    exec (.lidt m) s = .next (State.endInstruction { s with idtr := s.tableOperand m }) :=
  hs.completes rfl (bind_ok (readTable_ok hcpl h))

/-! SGDT and SIDT: three words at even distances, none of which overwrites another. -/

theorem wordOffset_ne (o : Word) {j k : Nat} (hj : j < 2 ^ 16) (hk : k < 2 ^ 16) (h : j ≠ k) :
    o + BitVec.ofNat 16 j ≠ o + BitVec.ofNat 16 k := by
  intro e
  have := congrArg BitVec.toNat e
  simp only [BitVec.toNat_add, BitVec.toNat_ofNat] at this
  omega

theorem wordOffset_parity (o : Word) (j k : Nat) :
    (o + BitVec.ofNat 16 (2 * j)).toNat % 2 = (o + BitVec.ofNat 16 (2 * k)).toNat % 2 := by
  simp only [BitVec.toNat_add, BitVec.toNat_ofNat]
  omega

/-- A word stored at twice `j` leaves the one at twice `k`. -/
theorem State.loadVia_storeVia_slot (s : State) (g : SegReg) (o : Word) {j k : Nat} (hj : j < 2 ^ 15) (hk : k < 2 ^ 15)
    (h : k ≠ j) (v : Word) :
    (s.storeVia g (o + BitVec.ofNat 16 (2 * j)) .word v).loadVia g (o + BitVec.ofNat 16 (2 * k)) .word =
      s.loadVia g (o + BitVec.ofNat 16 (2 * k)) .word :=
  s.loadVia_storeVia_ne g (wordOffset_ne o (by omega) (by omega) (by omega)) (wordOffset_parity o k j) v

/-- The six bytes SGDT and SIDT store, as three words. -/
def State.storeSlots (s : State) (g : SegReg) (o lim low high : Word) : State :=
  ((s.storeVia g (o + BitVec.ofNat 16 (2 * 0)) .word lim).storeVia g (o + BitVec.ofNat 16 (2 * 1)) .word low).storeVia g
    (o + BitVec.ofNat 16 (2 * 2)) .word high

theorem State.onlyMemory_storeVia (s : State) (g : SegReg) (o : Word) (w : Width) (v : BitVec w.bits) :
    s.OnlyMemory (s.storeVia g o w v) := by
  cases w <;> rfl

theorem State.OnlyMemory.seg {s u : State} (h : s.OnlyMemory u) (r : SReg) : u.seg r = s.seg r :=
  h.field (·.seg r) fun _ _ => by cases r <;> rfl

/-- Memory is no part of an effective address. -/
theorem State.OnlyMemory.setMem_eq {s u : State} (h : s.OnlyMemory u) (m : MemOp) (d : Word) (w : Width)
    (v : BitVec w.bits) : u.setMem m d w v = u.storeVia (s.seg (s.eaSeg m)) (s.ea m + d) w v := by
  rw [setMem, store, h.seg, h.field (·.eaSeg m) fun _ _ => rfl, h.field (·.ea m) fun _ _ => by cases m <;> rfl]

theorem State.storeTable_eq (s : State) (m : MemOp) (t : TableReg) (n : Nat) :
    s.storeTable m t n = s.storeSlots (s.seg (s.eaSeg m)) (s.ea m) t.limit (t.base.setWidth 16)
      (concatBytes (Config.freeByte n) (t.base.extractLsb' 16 8)) := by
  have h1 := s.onlyMemory_storeVia (s.seg (s.eaSeg m)) (s.ea m + 0) .word t.limit
  have h2 := h1.trans (onlyMemory_storeVia _ (s.seg (s.eaSeg m)) (s.ea m + 2) .word (t.base.setWidth 16))
  rw [storeTable, (OnlyMemory.refl s).setMem_eq, h1.setMem_eq, h2.setMem_eq]
  rfl

section
variable (s : State) (g : SegReg) (o lim low high : Word)

theorem State.onlyMemory_storeSlots : s.OnlyMemory (s.storeSlots g o lim low high) :=
  ((s.onlyMemory_storeVia g _ .word lim).trans (onlyMemory_storeVia _ g _ .word low)).trans
    (onlyMemory_storeVia _ g _ .word high)

/-- The memory locations of the six bytes. -/
def State.slotCells : List Nat :=
  (List.range 3).flatMap fun k => s.cells g (o + BitVec.ofNat 16 (2 * k)) .word

theorem State.sameMemory_storeSlots : s.SameMemory (s.storeSlots g o lim low high) (s.slotCells g o) := by
  have h := ((s.sameMemory_storeVia g (o + BitVec.ofNat 16 (2 * 0)) .word lim).trans (sameMemory_storeVia _ g
    (o + BitVec.ofNat 16 (2 * 1)) .word low)).trans (sameMemory_storeVia _ g (o + BitVec.ofNat 16 (2 * 2)) .word high)
  rw [slotCells, List.range_succ, List.range_succ, List.range_one]
  simpa only [storeSlots, cells_storeVia, List.flatMap_append, List.flatMap_singleton] using h

/-- Three words stored in RAM read back. -/
theorem State.load_storeSlots (hm : Memory.wf s.mem = true) (hram : ∀ a ∈ s.slotCells g o, s.isRam a = true) :
    (s.storeSlots g o lim low high).loadVia g (o + BitVec.ofNat 16 (2 * 0)) .word = lim ∧
    (s.storeSlots g o lim low high).loadVia g (o + BitVec.ofNat 16 (2 * 1)) .word = low ∧
    (s.storeSlots g o lim low high).loadVia g (o + BitVec.ofNat 16 (2 * 2)) .word = high := by
  have hslot {u : State} (hu : s.OnlyMemory u) (hwf : Memory.wf u.mem = true) {k : Nat} (hk : k < 3) (v : Word) :
      (u.storeVia g (o + BitVec.ofNat 16 (2 * k)) .word v).loadVia g (o + BitVec.ofNat 16 (2 * k)) .word = v := by
    refine loadVia_storeVia (w := .word) hwf (fun a ha => ?_) v
    rw [hu.isRam]
    refine hram a (List.mem_flatMap.mpr ⟨k, List.mem_range.mpr hk, ?_⟩)
    simpa only [cells, hu.physical] using ha
  have h0 := s.onlyMemory_storeVia g (o + BitVec.ofNat 16 (2 * 0)) .word lim
  have hwf0 := storeVia_wf hm g (o + BitVec.ofNat 16 (2 * 0)) .word lim
  refine ⟨?_, ?_, ?_⟩
  · rw [storeSlots, loadVia_storeVia_slot _ g o (by decide) (by decide) (by decide),
      loadVia_storeVia_slot _ g o (by decide) (by decide) (by decide)]
    exact hslot (.refl s) hm (by decide) lim
  · rw [storeSlots, loadVia_storeVia_slot _ g o (by decide) (by decide) (by decide)]
    exact hslot h0 hwf0 (by decide) low
  · exact hslot (h0.trans (onlyMemory_storeVia _ g _ .word low)) (storeVia_wf hwf0 g _ .word low) (by decide) high

end

/-- What SGDT and SIDT store reads back as the limit and the base. -/
theorem State.storeTable_stores {s : State} (hm : Memory.wf s.mem = true) (m : MemOp) (r : TableReg) (n : Nat) :
    s.OnlyMemory (s.storeTable m r n) ∧
    ((∀ a ∈ s.slotCells (s.seg (s.eaSeg m)) (s.ea m), s.isRam a = true) →
      (s.storeTable m r n).load (s.eaSeg m) (s.ea m + BitVec.ofNat 16 0) .word = r.limit ∧
      (s.storeTable m r n).load (s.eaSeg m) (s.ea m + BitVec.ofNat 16 2) .word = r.base.setWidth 16 ∧
      lowByte ((s.storeTable m r n).load (s.eaSeg m) (s.ea m + BitVec.ofNat 16 4) .word) =
        r.base.extractLsb' 16 8) ∧
    s.SameMemory (s.storeTable m r n) (s.slotCells (s.seg (s.eaSeg m)) (s.ea m)) := by
  rw [storeTable_eq]
  have honly := s.onlyMemory_storeSlots (s.seg (s.eaSeg m)) (s.ea m) r.limit (r.base.setWidth 16)
    (concatBytes (Config.freeByte n) (r.base.extractLsb' 16 8))
  refine ⟨honly, fun hram => ?_, s.sameMemory_storeSlots _ _ _ _ _⟩
  obtain ⟨hlim, hlow, hhigh⟩ := s.load_storeSlots (s.seg (s.eaSeg m)) (s.ea m) r.limit (r.base.setWidth 16)
    (concatBytes (Config.freeByte n) (r.base.extractLsb' 16 8)) hm hram
  simp only [load, honly.seg]
  exact ⟨hlim, hlow, (congrArg lowByte hhigh).trans (low_concat _ _)⟩

theorem State.slotCells_free (s : State) (n : Nat) (m : MemOp) :
    ({ s with free := n } : State).slotCells (({ s with free := n } : State).seg (s.eaSeg m))
      (({ s with free := n } : State).ea m) = s.slotCells (s.seg (s.eaSeg m)) (s.ea m) := by
  have hea : ({ s with free := n } : State).ea m = s.ea m := by cases m <;> rfl
  have hseg : ({ s with free := n } : State).seg (s.eaSeg m) = s.seg (s.eaSeg m) := by cases s.eaSeg m <;> rfl
  rw [hea, hseg]
  rfl

theorem State.OnlyMemory.endInstruction_free {s t : State} {n : Nat} (h : ({ s with free := n } : State).OnlyMemory t) :
    t.endInstruction = { s with mem := t.mem, stale := t.stale, free := n, pfx := noPrefixes } :=
  congrArg State.endInstruction h

/-- SGDT and SIDT store a table register; the sixth byte is a free value. -/
theorem State.Ready.storesTable {i : Instr} {eff : M Unit} {s : State} {m : MemOp} {r : TableReg} (hs : s.Ready)
    (hi : exec i s = perform eff s)
    (heff : eff s = .ok () (({ s with free := s.free + 1 } : State).storeTable m r s.free))
    (hm : Memory.wf s.mem = true) :
    ∃ t, exec i s = .next t ∧ t = { s with mem := t.mem, stale := t.stale, free := s.free + 1, pfx := noPrefixes } ∧
      ((∀ a ∈ s.slotCells (s.seg (s.eaSeg m)) (s.ea m), s.isRam a = true) →
        t.load (s.eaSeg m) (s.ea m + BitVec.ofNat 16 0) .word = r.limit ∧
        t.load (s.eaSeg m) (s.ea m + BitVec.ofNat 16 2) .word = r.base.setWidth 16 ∧
        lowByte (t.load (s.eaSeg m) (s.ea m + BitVec.ofNat 16 4) .word) = r.base.extractLsb' 16 8) ∧
      s.SameMemory t (s.slotCells (s.seg (s.eaSeg m)) (s.ea m)) := by
  have hcells := s.slotCells_free (s.free + 1) m
  obtain ⟨honly, hload, hsame⟩ := State.storeTable_stores (s := { s with free := s.free + 1 }) hm m r s.free
  generalize ({ s with free := s.free + 1 } : State).storeTable m r s.free = u at *
  refine ⟨_, hs.completes hi heff, honly.endInstruction_free, fun hram => ?_, ?_⟩
  · exact hload (hcells ▸ hram)
  · exact hcells ▸ hsame

/-- Settles O57: one update by the operand, or one store of three words. -/
theorem tableRegisters : Obligations.TableRegisters := by
  intro s m hs b at_
  refine ⟨fun hcpl h => ⟨lgdt_ok hs hcpl h, lidt_ok hs hcpl h⟩, fun h hm => ?_⟩
  intro cells p hp
  simp only [List.mem_cons, List.not_mem_nil, or_false] at hp
  rcases hp with rfl | rfl
  · exact hs.storesTable rfl (bind_ok (check_none h)) hm
  · exact hs.storesTable rfl (bind_ok (check_none h)) hm

end Sys2Proof.Machine

/-! The tests of CPL and IOPL (60_exceptions.md R560, R561, 46_processor_control.md R431). -/

namespace Sys2Proof.Machine

theorem State.cpl_real {s : State} (h : s.msw.pe = false) : s.cpl = 0 := by simp [cpl, h]

theorem requireCpl0_error {s : State} (h : s.cpl ≠ 0) : requireCpl0 s = .error (generalProtection 0) s :=
  require_false (by simpa using h)

theorem requireIopl_error {s : State} (h : s.mayDoIo = false) : requireIopl s = .error (generalProtection 0) s :=
  require_false h

/-- Settles O53: LIDT, LGDT, LMSW, CLTS and HLT begin with the test of CPL, and so do LLDT and LTR where real mode does
not refuse them. -/
theorem privilegedInstructions : Obligations.PrivilegedInstructions := by
  refine fun s m rm => ⟨fun ⟨hpe, hs⟩ hcpl => ?_, fun hpe => ⟨?_, ?_, fun hs => ?_⟩⟩
  · have hstop := requireCpl0_error hcpl
    simp only [List.forall_mem_cons, List.not_mem_nil, false_imp_iff, implies_true, and_true]
    refine ⟨⟨?_, ?_, ?_, ?_, ?_⟩, fun hd => ⟨?_, ?_⟩⟩
    · exact hs.raises rfl (by decide) (bind_error (bind_error hstop))
    · exact hs.raises rfl (by decide) (bind_error (bind_error hstop))
    · exact hs.raises rfl (by decide) (bind_error hstop)
    · exact hs.raises rfl (by decide) (bind_error hstop)
    · exact hs.raises rfl (by decide) (bind_error hstop)
    · exact hs.raises (performProtected_eq hpe hd) (by decide) (bind_error hstop)
    · exact hs.raises (performProtected_eq hpe hd) (by decide) (bind_error hstop)
  · exact performProtected_real hpe
  · exact performProtected_real hpe
  · have hcpl := State.cpl_real hpe
    simp only [List.forall_mem_cons, List.not_mem_nil, false_imp_iff, implies_true, and_true]
    refine ⟨⟨?_, ?_⟩, fun h => ⟨?_, ?_⟩, fun hread henters => ?_⟩
    · exact ⟨_, clts_ok hs hcpl, rfl, rfl⟩
    · exact ⟨_, hlt_halts hs hcpl, rfl, rfl⟩
    · exact ⟨_, lidt_ok hs hcpl h, rfl, rfl⟩
    · exact ⟨_, lgdt_ok hs hcpl h, rfl, rfl⟩
    · exact ⟨_, lmsw_ok hs hcpl hread henters, rfl, rfl⟩

theorem State.mayDoIo_eq_false {s : State} (hpe : s.msw.pe = true) (h : s.flags.iopl.toNat < s.cpl) :
    s.mayDoIo = false := by simpa [mayDoIo, hpe] using h

/-- A LOCK prefix is an I/O instruction to the test of IOPL. -/
theorem State.lockAllowed_eq_false {s : State} (hlock : s.pfx.lock = true) (hio : s.mayDoIo = false) :
    s.lockAllowed = false := by simp [lockAllowed, hlock, hio]

/-- A string instruction under a LOCK prefix that is not allowed, with or without a repeat prefix. -/
theorem stringInstr_lock {s : State} (hl : s.lockAllowed = false) (i : Instr) (compares : Bool) (once : M Unit) :
    stringInstr i compares once s = takeException 13 (some 0) s := by
  have hperform (m : M Unit) : performString m s = takeException 13 (some 0) s := by simp [performString, hl, settle]
  cases hr : s.pfx.rep <;> simp only [stringInstr, hr, hperform]

/-- Settles O54: the I/O instructions, STI and CLI begin with the test of IOPL, and a LOCK prefix is tested before its
instruction. -/
theorem ioPrivilege : Obligations.IoPrivilege := by
  intro s w port hpe hiopl
  have hio := State.mayDoIo_eq_false hpe hiopl
  have hstop := requireIopl_error hio
  simp only [List.forall_mem_cons, List.not_mem_nil, false_imp_iff, implies_true, and_true]
  refine ⟨fun hs => ?_, fun hlock => ?_⟩
  · have raises {i : Instr} {f : Unit → M Unit} (hi : exec i s = perform (requireIopl >>= f) s) :
        Raises i s 13 (some 0) := hs.raises hi (by decide) (bind_error hstop)
    have raisesString {i : Instr} {c : Bool} {f : Unit → M Unit} (hi : exec i s = stringInstr i c (requireIopl >>= f) s) :
        Raises i s 13 (some 0) := by
      rw [Raises, hi, stringInstr_once hs, bind_error hstop, settle_exc _ s (by decide)]
    exact ⟨raisesString rfl, raises rfl, raises rfl, raisesString rfl, raises rfl, raises rfl, raises rfl, raises rfl⟩
  · have hl := State.lockAllowed_eq_false hlock hio
    exact ⟨perform_lock hl, stringInstr_lock hl _ _ _, stringInstr_lock hl _ _ _, stringInstr_lock hl _ _ _,
      perform_lock hl, perform_lock hl, perform_lock hl, perform_lock hl, perform_lock hl⟩

end Sys2Proof.Machine

/-! ARPL (47_protection_control.md R454), and the instructions real mode does not have (R439, 60_exceptions.md R565). -/

namespace Sys2Proof.Machine

theorem ofNat_selectorRpl (v : Word) : BitVec.ofNat 16 (selectorRpl v) = v &&& 3 := by
  apply BitVec.eq_of_toNat_eq
  have hmask : v.toNat &&& 3 = v.toNat % 4 := Nat.and_two_pow_sub_one_eq_mod v.toNat 2
  simp only [selectorRpl, BitVec.extractLsb'_toNat, BitVec.toNat_ofNat, BitVec.toNat_and, BitVec.ofNat_eq_ofNat,
    hmask, Nat.shiftRight_zero]
  omega

/-- ARPL where the selector's RPL is the lower one: it is raised, and ZF is set. -/
theorem arpl_raises_rpl {s : State} {rm : Rm} {r : Reg} (hs : s.ReadyProtected) (hread : s.rmStop rm .word false = none)
    (hlower : selectorRpl (s.rmValue rm .word) < selectorRpl (s.reg r)) (hwrite : s.rmStop rm .word true = none) :
    WritesRm (.arpl rm r) s rm .word ((s.rmValue rm .word &&& 0xFFFC) ||| (s.reg r &&& 3))
      { s.flags with zf := true } 0 := by
  obtain ⟨⟨hpe, hr⟩, hd⟩ := hs
  refine hr.writesRmFlags (performProtected_eq hpe hd) ((bind_ok (readRm_ok hread)).trans ?_)
  rw [look_bind, if_pos hlower, bind_ok (writeRm_ok hwrite _), update_apply, withRpl, ofNat_selectorRpl]
  simp [State.setZf]

/-- ARPL where it is not lower. -/
theorem arpl_clears_zf {s : State} {rm : Rm} {r : Reg} (hs : s.ReadyProtected) (hread : s.rmStop rm .word false = none)
    (hnot : selectorRpl (s.reg r) ≤ selectorRpl (s.rmValue rm .word)) :
    WritesFlags (.arpl rm r) s { s.flags with zf := false } 0 := by
  obtain ⟨⟨hpe, hr⟩, hd⟩ := hs
  refine hr.writesFlags (performProtected_eq hpe hd) ((bind_ok (readRm_ok hread)).trans ?_)
  rw [look_bind, if_neg (Nat.not_lt.mpr hnot), update_apply]
  rfl

theorem State.decodedReal_noneDecoded (s : State) (n : Nat) :
    ({ s.noneDecoded with free := n } : State).decodedReal = false := by
  unfold decodedReal noneDecoded
  cases s.realQueue <;> rfl

/-- An instruction of protected mode only: vector 6 in real mode, and by a free choice where it may have been decoded
there. -/
theorem protectedOnly {i : Instr} {m : M Unit} (hi : exec i = performProtected m) (s : State) :
    (s.msw.pe = false → Raises i s 6 none) ∧
    (s.msw.pe = true → s.decodedReal = true →
      if Config.freeBit s.free then exec i s = takeException 6 none { s with free := s.free + 1 }
      else exec i s = exec i { s with
        free := s.free + 1, realQueue := s.realQueue.map fun q => { q with decoded := false } }) := by
  refine ⟨fun hpe => ?_, fun hpe hd => ?_⟩
  · rw [Raises, hi, performProtected_real hpe]
  · rw [hi, performProtected_queued hpe hd]
    split
    case isTrue hfree => rfl
    case isFalse hfree =>
      exact (performProtected_eq (s := { s.noneDecoded with free := s.free + 1 }) hpe (s.decodedReal_noneDecoded _)).symm

/-- Settles O60: ARPL is one write of r/m and ZF or of ZF alone, and the nine instructions are performed alike. -/
theorem adjustRpl : Obligations.AdjustRpl := by
  refine ⟨fun s rm r hs hread => ⟨?_, ?_⟩, fun s rm r => ?_⟩
  · exact arpl_raises_rpl hs hread
  · exact arpl_clears_zf hs hread
  · simp only [List.forall_mem_cons, List.not_mem_nil, false_imp_iff, implies_true, and_true]
    exact ⟨protectedOnly rfl s, protectedOnly rfl s, protectedOnly rfl s, protectedOnly rfl s, protectedOnly rfl s,
      protectedOnly rfl s, protectedOnly rfl s, protectedOnly rfl s, protectedOnly rfl s⟩

end Sys2Proof.Machine

/-! LLDT, LTR, SLDT and STR in protected mode (47_protection_control.md R444 to R447). -/

namespace Sys2Proof.Machine

/-- The load of a system register: the selector of a descriptor of the GDT, its type, its presence. -/
def loadSystem (sel : Word) (type : Nat) (install : Descriptor → State → State) : M Unit := do
  require (fun _ => !isNull sel && !selectorTi sel) (generalProtection (errSel sel))
  let d ← readDescriptor sel (generalProtection (errSel sel))
  require (fun _ => d.systemType == some type) (generalProtection (errSel sel))
  require (fun _ => d.present) (notPresent (errSel sel))
  update (install d)

/-- What LLDT loads. -/
def Descriptor.installLdt (sel : Word) (d : Descriptor) (s : State) : State :=
  { s with ldtr := { sel := sel, base := d.base, limit := d.limit, valid := true } }

/-- What LTR loads, with the busy mark. -/
def Descriptor.installTr (sel : Word) (d : Descriptor) (s : State) : State :=
  { s.setSystemType d.addr 3 with tr := { sel := sel, base := d.base, limit := d.limit } }

theorem loadLdtr_null {sel : Word} (h : sel &&& 0xFFFC = 0) :
    loadLdtr sel = update fun s => { s with ldtr := { s.ldtr with sel := sel, valid := false } } :=
  if_pos ((isNull_iff sel).mpr h)

theorem loadLdtr_eq {sel : Word} (h : sel &&& 0xFFFC ≠ 0) :
    loadLdtr sel = loadSystem sel 2 (Descriptor.installLdt sel) := by
  rw [loadLdtr, if_neg (by simp [isNull_false h]), loadSystem, isNull_false h]
  rfl

theorem loadTr_eq (sel : Word) : loadTr sel = loadSystem sel 1 (Descriptor.installTr sel) := rfl

section
variable {s : State} {sel : Word} {type : Nat} {install : Descriptor → State → State}

/-- No descriptor of the GDT. -/
theorem loadSystem_outside (h : sel &&& 0xFFFC = 0 ∨ selectorTi sel = true ∨ s.descriptorAddr sel = none) :
    loadSystem sel type install s = .error (generalProtection (errSel sel)) s := by
  by_cases hgdt : (!isNull sel && !selectorTi sel) = true
  · simp only [Bool.and_eq_true, Bool.not_eq_true', ← Bool.not_eq_true, isNull_iff] at hgdt
    have haddr := (h.resolve_left hgdt.1).resolve_left hgdt.2
    refine (bind_ok (require_true (by simpa [isNull] using hgdt))).trans (bind_error ?_)
    rw [readDescriptor_eq, haddr]
  · exact bind_error (require_false (by simpa using hgdt))

variable {a : Addr} (ha : s.Names sel a) (hti : selectorTi sel = false)
include ha hti

theorem loadSystem_bind :
    loadSystem sel type install s = (do
      require (fun _ => (s.descriptorAt a).systemType == some type) (generalProtection (errSel sel))
      require (fun _ => (s.descriptorAt a).present) (notPresent (errSel sel))
      update (install (s.descriptorAt a)) : M Unit) s :=
  (bind_ok (require_true (by simp [isNull_false ha.1, hti]))).trans (bind_ok (readDescriptor_ok _ ha.2.1 ha.2.2))

theorem loadSystem_wrongType (h : (s.descriptorAt a).systemType ≠ some type) :
    loadSystem sel type install s = .error (generalProtection (errSel sel)) s :=
  (loadSystem_bind ha hti).trans (bind_error (require_false (by simpa using h)))

variable (htype : (s.descriptorAt a).systemType = some type)
include htype

theorem loadSystem_absent (h : (s.descriptorAt a).present = false) :
    loadSystem sel type install s = .error (notPresent (errSel sel)) s :=
  (loadSystem_bind ha hti).trans ((bind_ok (require_true (by simpa using htype))).trans (bind_error (require_false h)))

theorem loadSystem_ok (h : (s.descriptorAt a).present = true) :
    loadSystem sel type install s = .ok () (install (s.descriptorAt a) s) :=
  (loadSystem_bind ha hti).trans ((bind_ok (require_true (by simpa using htype))).trans (bind_ok (require_true h)))

end

/-- The type of a TSS marked busy (45_protected_transfer.md R414). -/
theorem State.systemType_setSystemType {s : State} (hm : Memory.wf s.mem = true) {a : Addr}
    (hram : s.isRam (s.physical (a + 5)) = true) {t : Nat} (h : (s.descriptorAt a).systemType = some t) :
    ((s.setSystemType a 3).descriptorAt a).systemType = some 3 := by
  have hmark (ar : Byte) (hsystem : arBit ar 4 = false) :
      arBit ((ar &&& 0xF0) ||| 3) 4 = false ∧ (((ar &&& 0xF0) ||| 3).extractLsb' 0 4).toNat = 3 := by
    revert ar
    decide
  have hsystem : arBit (s.readByte (a + 5)) 4 = false := by
    by_contra hseg
    have hsegment : (s.descriptorAt a).isSegment = true := (Bool.not_eq_false _).mp hseg
    simp [Descriptor.systemType, hsegment] at h
  obtain ⟨hbit, htype⟩ := hmark _ hsystem
  have har : ((s.setSystemType a 3).descriptorAt a).ar = (s.readByte (a + 5) &&& 0xF0) ||| 3 :=
    readByte_setSystemType hm hram 3
  rw [Descriptor.systemType, Descriptor.isSegment, har, hbit, htype, if_neg Bool.false_ne_true]

section
variable {s : State} {rm : Rm} (hs : s.ReadyProtected) (hcpl : s.cpl = 0) (hread : s.rmStop rm .word false = none)
include hs hcpl hread

theorem exec_lldt : exec (.lldt rm) s = settle (loadLdtr (s.rmValue rm .word) s) := by
  obtain ⟨⟨hpe, hrep, hlock⟩, hd⟩ := hs
  refine (performProtected_eq hpe hd).trans ((perform_eq hrep hlock).trans ?_)
  rw [bind_ok (requireCpl0_ok hcpl), bind_ok (readRm_ok hread)]

theorem exec_ltr : exec (.ltr rm) s = settle (loadTr (s.rmValue rm .word) s) := by
  obtain ⟨⟨hpe, hrep, hlock⟩, hd⟩ := hs
  refine (performProtected_eq hpe hd).trans ((perform_eq hrep hlock).trans ?_)
  rw [bind_ok (requireCpl0_ok hcpl), bind_ok (readRm_ok hread)]

end

/-- What LTR leaves: TR, the busy mark of its descriptor, and all else as before. -/
theorem loadsTr {i : Instr} {s : State} {sel : Word} {a : Addr} {t : Nat}
    (hi : exec i s = .next ((s.descriptorAt a).installTr sel s).endInstruction)
    (h : (s.descriptorAt a).systemType = some t) :
    ∃ t, exec i s = .next t ∧
      t.tr = { sel := sel, base := (s.descriptorAt a).base, limit := (s.descriptorAt a).limit } ∧
      t.regs = s.regs ∧ t.flags = s.flags ∧
      (Memory.wf s.mem = true → s.isRam (s.physical (a + 5)) = true → (t.descriptorAt a).systemType = some 3) ∧
      s.SameMemory t [s.physical (a + 5)] := by
  have hbusy (hm : Memory.wf s.mem = true) (hram : s.isRam (s.physical (a + 5)) = true) :=
    State.systemType_setSystemType hm hram h
  have hsame := s.sameMemory_setSystemType a 3
  have honly := State.OnlyMemory.setSystemType s a 3
  rw [Descriptor.installTr, show (s.descriptorAt a).addr = a from rfl] at hi
  generalize s.setSystemType a 3 = u at *
  exact ⟨_, hi, rfl, honly.field (·.regs) fun _ _ => rfl, honly.field (·.flags) fun _ _ => rfl, hbusy, hsame⟩

/-- Settles O58: SLDT and STR are one write of r/m, LLDT and LTR the load of a system register. -/
theorem systemRegisters : Obligations.SystemRegisters := by
  refine fun s rm hs => ⟨fun h => ?_, fun hcpl hread => ?_⟩
  · obtain ⟨⟨hpe, hr⟩, hd⟩ := hs
    exact ⟨hr.writesRm (performProtected_eq hpe hd) (writeRm_ok h s.ldtr.sel),
      hr.writesRm (performProtected_eq hpe hd) (writeRm_ok h s.tr.sel)⟩
  have hldt := exec_lldt hs hcpl hread
  have htr := exec_ltr hs hcpl hread
  rw [loadTr_eq] at htr
  intro sel
  refine ⟨fun hnull => ⟨?_, ?_⟩, fun hsel hout => ⟨?_, ?_⟩, fun a hsel hti haddr htop => ?_⟩
  · rw [loadLdtr_null hnull] at hldt
    exact next_of_settle hldt rfl
  · have hstop := loadSystem_outside (s := s) (type := 1) (install := Descriptor.installTr sel) (.inl hnull)
    rw [errSel, hnull] at hstop
    exact raises_of_settle htr hstop
  · rw [loadLdtr_eq hsel] at hldt
    exact raises_of_settle hldt (loadSystem_outside (.inr hout))
  · exact raises_of_settle htr (loadSystem_outside (.inr hout))
  · have ha : s.Names sel a := ⟨hsel, haddr, htop⟩
    rw [loadLdtr_eq hsel] at hldt
    refine ⟨fun h => ?_, fun h => ?_, fun h hp => ?_, fun h hp => ?_, fun h hp => ?_, fun h hp => ?_⟩
    · exact raises_of_settle hldt (loadSystem_wrongType ha hti h)
    · exact raises_of_settle htr (loadSystem_wrongType ha hti h)
    · exact raises_of_settle hldt (loadSystem_absent ha hti h hp)
    · exact raises_of_settle htr (loadSystem_absent ha hti h hp)
    · exact next_of_settle hldt (loadSystem_ok ha hti h hp)
    · exact loadsTr (next_of_settle htr (loadSystem_ok ha hti h hp)) h

end Sys2Proof.Machine

/-! VERR, VERW, LAR and LSL in protected mode (47_protection_control.md R450 to R453): one test, with what each of the four
accepts and what it loads. -/

namespace Sys2Proof.Machine

/-! Which descriptors pass. -/

theorem State.levelAllows_iff (s : State) (d : Descriptor) (sel : Word) :
    s.levelAllows d sel = true ↔ d.isConforming = true ∨ max s.cpl (selectorRpl sel) ≤ d.dpl := by
  simp [levelAllows, epl]

theorem Descriptor.systemType_cases (d : Descriptor) :
    (d.isSegment = true ∧ d.systemType = none) ∨ (d.isSegment = false ∧ ∃ t, d.systemType = some t) := by
  unfold systemType
  cases d.isSegment
  · exact .inr ⟨rfl, _, rfl⟩
  · exact .inl ⟨rfl, rfl⟩

theorem Descriptor.larAccepts_iff (d : Descriptor) :
    d.larAccepts = true ↔ d.isSegment = true ∨ ∃ t ∈ [1, 2, 3, 4, 5], d.systemType = some t := by
  unfold larAccepts
  rcases d.systemType_cases with ⟨hseg, htype⟩ | ⟨hseg, t, htype⟩
  · simp [hseg, htype]
  · simp only [hseg, htype, Option.some.injEq, exists_eq_right', List.mem_cons, List.not_mem_nil, or_false,
      Bool.and_eq_true, decide_eq_true_eq, Bool.false_eq_true, false_or]
    omega

theorem Descriptor.lslAccepts_iff (d : Descriptor) :
    d.lslAccepts = true ↔ d.isSegment = true ∨ ∃ t ∈ [1, 2, 3], d.systemType = some t := by
  unfold lslAccepts
  rcases d.systemType_cases with ⟨hseg, htype⟩ | ⟨hseg, t, htype⟩
  · simp [hseg, htype]
  · simp only [hseg, htype, Option.some.injEq, exists_eq_right', List.mem_cons, List.not_mem_nil, or_false,
      Bool.and_eq_true, decide_eq_true_eq, Bool.false_eq_true, false_or]
    omega

/-! What a passed test leaves. -/

/-- An update writes these registers with these values, and nothing else. -/
structure LoadsRegs (f : State → State) (l : List (Reg × Word)) : Prop where
  only (u : State) : f u = { u with regs := (f u).regs }
  loads (u : State) : ∀ q ∈ l, (f u).reg q.1 = q.2
  others (u : State) : u.SameRegs (f u) (l.map Prod.fst)

theorem loadsRegs_nil : LoadsRegs (fun s => s) [] := ⟨fun _ => rfl, fun _ _ h => by simp at h, fun _ _ _ => rfl⟩

theorem loadsRegs_setReg (r : Reg) (v : Word) : LoadsRegs (fun s => s.setReg r v) [(r, v)] :=
  ⟨fun _ => rfl, fun u q hq => by simp [List.mem_singleton.mp hq], fun u => u.sameRegs_setReg r v⟩

/-- `i` completes with ZF set, the descriptor at `a` accessed if it is a segment, and `l` loaded. -/
def PassesTest (i : Instr) (s : State) (a : Addr) (l : List (Reg × Word)) : Prop :=
  ∃ t, exec i s = .next t ∧ t.flags = { s.flags with zf := true } ∧ (∀ q ∈ l, t.reg q.1 = q.2) ∧
    s.SameRegs t (l.map Prod.fst) ∧
    (Memory.wf s.mem = true → s.isRam (s.physical (a + 5)) = true → (s.descriptorAt a).isSegment = true →
      t.readByte (a + 5) = (s.descriptorAt a).ar ||| 1) ∧
    s.SameMemory t [s.physical (a + 5)]

/-- A segment descriptor counts as used, another one not (R452). -/
theorem State.testPassed_eq (s : State) (d : Descriptor) :
    s.testPassed d = (if d.isSegment then s.setAccessed d else s).setZf true := rfl

section
variable {s : State} {a : Addr}

theorem State.testPassed_flags (d : Descriptor) : (s.testPassed d).flags = { s.flags with zf := true } := by
  rw [testPassed_eq]
  split
  · simp [setZf]
  · rfl

theorem State.testPassed_reg (d : Descriptor) (r : Reg) : (s.testPassed d).reg r = s.reg r := by
  rw [testPassed_eq]
  split
  · exact s.reg_setAccessed d r
  · rfl

theorem State.sameMemory_testPassed (s : State) (a : Addr) :
    s.SameMemory (s.testPassed (s.descriptorAt a)) [s.physical (a + 5)] := by
  rw [testPassed_eq]
  split
  · exact s.sameMemory_setAccessed (s.descriptorAt a)
  · exact fun _ _ => rfl

theorem State.readByte_testPassed (hm : Memory.wf s.mem = true) (hram : s.isRam (s.physical (a + 5)) = true)
    (hseg : (s.descriptorAt a).isSegment = true) :
    (s.testPassed (s.descriptorAt a)).readByte (a + 5) = (s.descriptorAt a).ar ||| 1 := by
  rw [testPassed_eq, if_pos hseg]
  exact readByte_setAccessed hm hram

theorem passesTest_of_exec {i : Instr} {f : State → State} {l : List (Reg × Word)} (hf : LoadsRegs f l)
    (h : exec i s = .next (f (s.testPassed (s.descriptorAt a))).endInstruction) : PassesTest i s a l := by
  have hloads := hf.loads (s.testPassed (s.descriptorAt a))
  have hothers := hf.others (s.testPassed (s.descriptorAt a))
  have honly := hf.only (s.testPassed (s.descriptorAt a))
  generalize f (s.testPassed (s.descriptorAt a)) = t at *
  refine ⟨_, h, ?_, hloads, fun r hr => (hothers r hr).trans (State.testPassed_reg _ r), fun hm hram hseg => ?_, ?_⟩
  · rw [honly]
    exact State.testPassed_flags _
  · rw [honly]
    exact State.readByte_testPassed hm hram hseg
  · rw [honly]
    exact s.sameMemory_testPassed a

end

/-! The test. -/

theorem probe_none {s : State} {sel : Word} (h : sel &&& 0xFFFC = 0 ∨ s.descriptorAddr sel = none) :
    probe sel s = .ok none s := by
  have hnone : (if isNull sel then none else s.descriptorAddr sel) = none := by
    rcases h with h | h
    · rw [if_pos ((isNull_iff sel).mpr h)]
    · rw [h, ite_self]
  rw [probe, look_bind, hnone]
  rfl

theorem probe_named {s : State} {sel : Word} {a : Addr} (ha : s.Names sel a) :
    probe sel s = .ok (some (s.descriptorAt a)) s := by
  obtain ⟨hsel, haddr, htop⟩ := ha
  rw [probe, look_bind, if_neg (by simp [isNull_false hsel]), haddr]
  exact bind_ok (bind_ok (require_true (by simp [htop])))

section
variable {i : Instr} {s : State} {rm : Rm} {accepts : State → Descriptor → Word → Bool}
  {result : Descriptor → State → State} (hs : s.ReadyProtected) (hread : s.rmStop rm .word false = none)
  (hi : exec i s = performProtected (pointerTest rm accepts result) s)
include hs hread hi

theorem pointerTest_none (h : s.rmValue rm .word &&& 0xFFFC = 0 ∨ s.descriptorAddr (s.rmValue rm .word) = none) :
    exec i s = .next (s.setZf false).endInstruction := by
  obtain ⟨⟨hpe, hr⟩, hd⟩ := hs
  exact hr.completes (hi.trans (performProtected_eq hpe hd))
    ((bind_ok (readRm_ok hread)).trans (bind_ok (probe_none h)))

theorem pointerTest_named {a : Addr} (ha : s.Names (s.rmValue rm .word) a) :
    exec i s = .next (if accepts s (s.descriptorAt a) (s.rmValue rm .word) then
      result (s.descriptorAt a) (s.testPassed (s.descriptorAt a)) else s.setZf false).endInstruction := by
  obtain ⟨⟨hpe, hr⟩, hd⟩ := hs
  exact hr.completes (hi.trans (performProtected_eq hpe hd))
    ((bind_ok (readRm_ok hread)).trans (bind_ok (probe_named ha)))

/-- One of the four instructions, which accepts what satisfies `p` and loads `l`. -/
theorem pointerTest_spec {a : Addr} (ha : s.Names (s.rmValue rm .word) a) {p : Prop} {l : List (Reg × Word)}
    (hp : accepts s (s.descriptorAt a) (s.rmValue rm .word) = true ↔ p)
    (hf : LoadsRegs (result (s.descriptorAt a)) l) :
    (¬p → exec i s = .next (s.setZf false).endInstruction) ∧ (p → PassesTest i s a l) := by
  have hexec := pointerTest_named hs hread hi ha
  refine ⟨fun h => ?_, fun h => passesTest_of_exec hf ?_⟩
  · rwa [if_neg (mt hp.mp h)] at hexec
  · rwa [if_pos (hp.mpr h)] at hexec

end

/-- Settles O59: the four instructions are one test. -/
theorem pointerTests : Obligations.PointerTests := by
  intro s rm r hs hread sel level typeIn cleared
  refine ⟨fun h => ?_, fun a hsel haddr htop => ?_⟩
  · simp only [List.forall_mem_cons, List.not_mem_nil, false_imp_iff, implies_true, and_true]
    exact ⟨pointerTest_none hs hread rfl h, pointerTest_none hs hread rfl h, pointerTest_none hs hread rfl h,
      pointerTest_none hs hread rfl h⟩
  · have ha : s.Names sel a := ⟨hsel, haddr, htop⟩
    intro d
    have hlevel := s.levelAllows_iff d sel
    rw [List.forall_mem_cons, List.forall_mem_cons, List.forall_mem_cons, List.forall_mem_cons]
    refine ⟨?_, ?_, ?_, ?_, List.forall_mem_nil _⟩
    · refine pointerTest_spec (i := .verr rm) hs hread rfl ha ?_ ?_
      · rw [Bool.and_eq_true, hlevel]
      · exact loadsRegs_nil
    · refine pointerTest_spec (i := .verw rm) hs hread rfl ha ?_ ?_
      · rw [Bool.and_eq_true, decide_eq_true_eq]
        rfl
      · exact loadsRegs_nil
    · refine pointerTest_spec (i := .lar r rm) hs hread rfl ha ?_ ?_
      · rw [Bool.and_eq_true, hlevel, d.larAccepts_iff]
      · exact loadsRegs_setReg r _
    · refine pointerTest_spec (i := .lsl r rm) hs hread rfl ha ?_ ?_
      · rw [Bool.and_eq_true, hlevel, d.lslAccepts_iff]
      · exact loadsRegs_setReg r _

end Sys2Proof.Machine

/-! POPF and IRET in protected mode below the privilege of IF and IOPL (60_exceptions.md R562). -/

namespace Sys2Proof.Machine

theorem State.poppedFlags_ie {s : State} (hpe : s.msw.pe = true) (h : s.flags.iopl.toNat < s.cpl) (v : Word) :
    (s.poppedFlags v).ie = s.flags.ie := by simp [poppedFlags, hpe, h]

theorem State.poppedFlags_iopl {s : State} (hpe : s.msw.pe = true) (h : 0 < s.cpl) (v : Word) :
    (s.poppedFlags v).iopl = s.flags.iopl := by simp [poppedFlags, hpe, h.ne']

/-- A word read from the stack leaves the state. -/
theorem readStack_bind_eq_ok {β : Type} {f : State → Word} {g : Word → M β} {s t : State} {b : β}
    (h : ((do segRead .ss (← look f) .word : M Word) >>= g) s = .ok b t) : ∃ v, g v s = .ok b t := by
  obtain ⟨v, u, hread, hg⟩ := bind_eq_ok h
  rw [look_bind, segRead_eq] at hread
  split at hread
  · obtain ⟨rfl, rfl⟩ := hread
    exact ⟨_, hg⟩
  · cases hread

/-- IRET ends with FLAGS loaded from the stack. -/
theorem returnProtected_flags {s u : State} (hpe : s.msw.pe = true) (h : returnProtected s = .ok () u) :
    ∃ v, u.flags = s.poppedFlags v := by
  obtain ⟨off, h⟩ := readStack_bind_eq_ok h
  obtain ⟨csel, h⟩ := readStack_bind_eq_ok h
  obtain ⟨v, h⟩ := readStack_bind_eq_ok h
  rw [look_bind] at h
  obtain ⟨-, t, -, h⟩ := bind_eq_ok h
  cases h
  exact ⟨v, Flags.loadProtected_eq hpe v⟩

theorem returnFromInterrupt_within {s : State} (hpe : s.msw.pe = true) (hnt : s.flags.nt = false) :
    returnFromInterrupt s = returnProtected s := by
  simp only [returnFromInterrupt, look_bind, hpe, hnt, Bool.not_true, Bool.false_eq_true, ↓reduceIte]

/-- Settles O19: both load FLAGS by the rule that leaves IF and IOPL where CPL has not the privilege. -/
theorem flagsBelowPrivilege : Obligations.FlagsBelowPrivilege := by
  intro s ⟨hpe, hs⟩
  refine ⟨fun hread => ?_, fun u hnt hret => ?_⟩
  · exact ⟨_, execPopf_ok hs hread, rfl, rfl, fun h => State.poppedFlags_ie hpe h _,
      fun h => State.poppedFlags_iopl hpe h _⟩
  · obtain ⟨v, hflags⟩ := returnProtected_flags hpe hret
    refine ⟨_, hs.completes rfl ((returnFromInterrupt_within hpe hnt).trans hret), rfl, rfl, fun h => ?_, fun h => ?_⟩
    · exact (congrArg Flags.ie hflags).trans (State.poppedFlags_ie hpe h v)
    · exact (congrArg Flags.iopl hflags).trans (State.poppedFlags_iopl hpe h v)

end Sys2Proof.Machine

/-! Interrupts and exceptions in real mode (60_exceptions.md R502, R516, R520), and vectors beyond the table (R507, R518,
R536, R545). -/

namespace Sys2Proof.Machine

/-! Entry in real mode after the prefixes are used up, and with no single-step trap owed. -/

theorem State.pushed_endInstruction (s : State) (words : List Word) :
    s.endInstruction.pushed words = (s.pushed words).endInstruction := by
  unfold pushed
  rw [reg_endInstruction, endInstruction_ss, writeFrame_endInstruction]
  rfl

theorem State.framed_endInstruction (s : State) (rip : Word) :
    s.endInstruction.framed rip = (s.framed rip).endInstruction := s.pushed_endInstruction _

/-- No single-step trap is owed (60_exceptions.md R507). -/
def State.untrapped (s : State) : State := { s with trap := false }

theorem State.writeFrame_untrapped (s : State) (g : SegReg) (sp : Word) (words : List Word) :
    s.untrapped.writeFrame g sp words = (s.writeFrame g sp words).untrapped := by
  induction words generalizing s sp with
  | nil => rfl
  | cons v rest ih => exact ih (s.storeVia g (sp - 2) .word v) (sp - 2)

theorem State.framed_untrapped (s : State) (rip : Word) : s.untrapped.framed rip = (s.framed rip).untrapped :=
  congrArg (fun t => t.setReg SP (s.reg SP - 6)) (s.writeFrame_untrapped s.ss (s.reg SP) _)

theorem State.realEntry_untrapped (s : State) (v : Byte) (rip : Word) :
    s.untrapped.realEntry v rip = (s.realEntry v rip).untrapped := by
  rw [realEntry_eq, framed_untrapped, realEntry_eq]
  generalize s.framed rip = t
  rfl

theorem enterVector_endInstruction {s : State} {v : Byte} (h : s.canEnterReal v) (rip : Word) :
    enterVector v rip s.endInstruction = .ok () (s.realEntry v rip) := by
  rw [enterVector_ok (s := s.endInstruction) h rip, State.framed_endInstruction, State.realEntry_eq,
    ← State.endInstruction_handler]
  generalize s.framed rip = t
  rfl

theorem enterReal_eq {s : State} {v : Byte} (rip : Word) (hv : 4 * v.toNat + 3 ≤ s.idtr.limit.toNat) :
    enterReal v rip s = enterVector v rip s := by
  rw [enterReal, look_bind, if_pos hv]

theorem enterReal_beyond {s : State} {v : Byte} (rip : Word) (hv : s.idtr.limit.toNat < 4 * v.toNat + 3)
    (h8 : v ≠ 8) (h13 : v ≠ 13) (h : 35 ≤ s.idtr.limit.toNat) :
    enterReal v rip s = enterVector 8 s.curIp s.untrapped := by
  have hother : ¬(v = 8 ∨ v = 13 ∨ s.idtr.limit.toNat < 35) := by
    rintro (h | h | h)
    · exact h8 h
    · exact h13 h
    · omega
  rw [enterReal, look_bind, if_neg (by omega), if_neg hother]
  rfl

theorem enterReal_shutdown {s : State} {v : Byte} (rip : Word) (hv : s.idtr.limit.toNat < 4 * v.toNat + 3)
    (h : v = 8 ∨ v = 13 ∨ s.idtr.limit.toNat < 35) : enterReal v rip s = .error .shutdown s := by
  rw [enterReal, look_bind, if_neg (by omega), if_pos h]
  rfl

theorem State.canEnterReal.le_limit {s : State} {v : Byte} (h : s.canEnterReal v) :
    4 * v.toNat + 3 ≤ s.idtr.limit.toNat := h.2.1

/-! The frame of an entry in real mode. -/

theorem State.sameRegs_realEntry (s : State) (v : Byte) (rip : Word) : s.SameRegs (s.realEntry v rip) [SP] :=
  s.sameRegs_pushed [s.flags.image, s.cs.sel, rip]

theorem State.sameMemory_realEntry (s : State) (v : Byte) (rip : Word) :
    s.SameMemory (s.realEntry v rip) (s.pushCells 3) := s.sameMemory_pushed [s.flags.image, s.cs.sel, rip]

/-! Software interrupts and exceptions. -/

theorem IsSoftwareInterrupt.entersReal {i : Instr} {s : State} {v : Byte} (hi : IsSoftwareInterrupt i s v) (hs : s.Ready)
    (h : s.canEnterReal v) : exec i s = .next (s.realEntry v s.ip) := by
  rw [hs.completes hi.exec_eq ((softwareInterrupt_real h).trans (enterVector_ok h s.ip)), State.endInstruction_handler,
    State.realEntry_eq]

/-- INTO with OF clear. -/
theorem State.Ready.into_doesNothing {s : State} (hs : s.Ready) (h : s.flags.ovf = false) : DoesNothing .into s := by
  refine hs.completes (m := pure ()) ?_ rfl
  change perform _ s = _
  rw [if_neg (by simp [h])]

theorem takeException_untrapped {v : Byte} {err : Option Word} {s t : State}
    (h : enter v s.curIp false err s.endInstruction = .ok () t.untrapped) :
    takeException v err s = .next t.untrapped := takeException_ok (t := t.untrapped) h

theorem takeException_real {s : State} {v : Byte} (err : Option Word) (h : s.canEnterReal v) :
    takeException v err s = .next (s.realEntry v s.curIp).untrapped := by
  refine takeException_ok ?_
  rw [enter_real (s := s.endInstruction) h.1, enterReal_eq (s := s.endInstruction) _ h.le_limit,
    enterVector_endInstruction h]

/-- Settles O43: the three software interrupts and every exception make the same entry, with their own return address. -/
theorem interruptEntryReal : Obligations.InterruptEntryReal := by
  refine ⟨fun s hs => ⟨fun v h => ⟨?_, ?_, ?_⟩, fun h => ?_, fun hovf h => ?_, hs.into_doesNothing⟩,
    fun s => ⟨fun v err h => ⟨?_, ?_, ?_⟩, fun u h => ?_⟩⟩
  · exact hs.entersReal h
  · exact s.sameRegs_realEntry v s.ip
  · exact s.sameMemory_realEntry v s.ip
  · exact IsSoftwareInterrupt.entersReal (.inr (.inl ⟨rfl, rfl⟩)) hs h
  · exact IsSoftwareInterrupt.entersReal (.inr (.inr ⟨rfl, rfl, hovf⟩)) hs h
  · exact takeException_real err h
  · exact s.sameRegs_realEntry v s.curIp
  · exact s.sameMemory_realEntry v s.curIp
  · exact takeException_real none h

/-! Vectors beyond the table. -/

section
variable {s : State} {v : Byte} (hpe : s.msw.pe = false) (hv : s.idtr.limit.toNat < 4 * v.toNat + 3)
include hpe hv

section
variable (h8 : v ≠ 8) (h13 : v ≠ 13) (h : s.canEnterReal 8)
include h8 h13 h

theorem takeException_beyond (err : Option Word) :
    takeException v err s = .next (s.realEntry 8 s.curIp).untrapped := by
  have hentry := enterVector_endInstruction (s := s.untrapped) h s.curIp
  rw [State.realEntry_untrapped] at hentry
  refine takeException_untrapped ?_
  rw [enter_real (s := s.endInstruction) hpe, enterReal_beyond (s := s.endInstruction) _ hv h8 h13 h.le_limit]
  exact hentry

theorem State.Ready.intN_beyond (hs : s.Ready) : exec (.intN v) s = .next (s.realEntry 8 s.curIp).untrapped := by
  have hvector : softwareInterrupt v s = enterVector 8 s.curIp s.untrapped := by
    rw [softwareInterrupt, look_bind, enter_real hpe, enterReal_beyond _ hv h8 h13 h.le_limit]
  rw [hs.completes (i := .intN v) rfl (hvector.trans (enterVector_ok (s := s.untrapped) h s.curIp)),
    State.endInstruction_handler, ← State.realEntry_untrapped, State.realEntry_eq]

end

theorem takeException_shutdown (err : Option Word) (h : v = 8 ∨ v = 13 ∨ s.idtr.limit.toNat < 35) :
    takeException v err s = .next s.endInstruction.enterShutdown := by
  have hstop : enter v s.curIp false err s.endInstruction = .error .shutdown s.endInstruction := by
    rw [enter_real (s := s.endInstruction) hpe, enterReal_shutdown (s := s.endInstruction) _ hv h]
  rw [takeException, hstop]

end

/-- The vector of the first exception and vector 8 both lie beyond the table of protected mode. -/
theorem takeException_beyondTwice {s : State} {v : Byte} (hpe : s.msw.pe = true) (err : Option Word)
    (hv : s.idtr.limit.toNat < 8 * v.toNat + 7) (h : s.idtr.limit.toNat < 71) :
    takeException v err s = .next s.endInstruction.untrapped.enterShutdown := by
  obtain ⟨-, hagain⟩ := doubleFaults_of_enterProt hpe (enterProt_beyond (s := s.endInstruction) s.curIp false err hv)
  have hbeyond := enterProt_beyond (s := s.endInstruction.untrapped) (v := 8) s.curIp false (some 0) h
  exact hagain _ _ _ ((enter_protected (s := s.endInstruction.untrapped) hpe 8 s.curIp false (some 0)).trans hbeyond)

/-- Settles O44: the entry of a vector beyond the table is that of vector 8, or shutdown; in protected mode it raises an
exception, which is a double fault. -/
theorem doubleFault_beyondTable : Obligations.DoubleFault := by
  refine ⟨fun s v err hpe hv => ⟨fun h8 h13 h => ⟨?_, fun hs => ?_⟩, fun h => ?_⟩,
    fun s v err hpe hv => ⟨?_, fun h => ?_⟩⟩
  · exact takeException_beyond hpe hv h8 h13 h err
  · exact hs.intN_beyond hpe hv h8 h13 h
  · exact ⟨_, takeException_shutdown hpe hv err h, rfl, rfl, rfl⟩
  · exact (doubleFaults_of_enterProt hpe (enterProt_beyond (s := s.endInstruction) s.curIp false err hv)).1
  · exact ⟨_, takeException_beyondTwice hpe err hv h, rfl, rfl, rfl, rfl⟩

end Sys2Proof.Machine

/-! Events in real mode (60_exceptions.md R504 to R507, R519, R544 to R546): which of them wait, and the entries of
those that are taken. -/

namespace Sys2Proof.Machine

/-! Which events may be taken. -/

/-- What an event of the boundary requires (60_exceptions.md R504, R506, R507). -/
def Event.Due (s : State) : Event → Prop
  | .singleStep => s.shutdown = false ∧ s.trap = true
  | .nmi => s.nmiInService = false
  | .overrun => s.nmiInService = false
  | .interrupt _ => s.shutdown = false ∧ s.nmiInService = false ∧ s.flags.ie = true
  | .operand => True

theorem State.due_of_interruptReady {s : State} {v : Byte} (hs : s.shutdown = false)
    (h : s.interruptReady = some v) : Event.Due s (.interrupt v) := by
  unfold interruptReady at h
  split at h
  case isTrue hready =>
    simp only [Bool.and_eq_true, Bool.not_eq_true'] at hready
    obtain ⟨⟨⟨hie, hnmi⟩, -⟩, -⟩ := hready
    exact ⟨hs, hnmi, hie⟩
  case isFalse => cases h

theorem State.due_of_runningEvent {s : State} {e : Event} (hs : s.shutdown = false) (h : s.runningEvent = some e) :
    Event.Due s e := by
  unfold runningEvent at h
  split at h
  case isTrue hstep =>
    cases h
    exact ⟨hs, (Bool.and_eq_true_iff.mp hstep).1⟩
  split at h
  case isTrue hnmi =>
    cases h
    simp only [Bool.and_eq_true, Bool.not_eq_true'] at hnmi
    exact hnmi.1.2
  split at h
  case isTrue hoverrun =>
    cases h
    simp only [Bool.and_eq_true, Bool.not_eq_true'] at hoverrun
    exact hoverrun.2
  split at h
  case _ v hready =>
    cases h
    exact due_of_interruptReady hs hready
  case _ =>
    split at h
    · cases h
      trivial
    · cases h

theorem State.due_of_event {s : State} {e : Event} (h : s.event = some e) : Event.Due s e := by
  unfold event at h
  split at h
  case isTrue =>
    split at h
    case isTrue hnmi =>
      cases h
      simp only [Bool.and_eq_true, Bool.not_eq_true'] at hnmi
      exact hnmi.1.2
    case isFalse =>
      split at h
      · cases h
        trivial
      · cases h
  case isFalse hs => exact due_of_runningEvent (Bool.not_eq_true _ ▸ hs) h

theorem State.event_singleStep {s : State} (htrap : s.trap = true) (hinhibit : s.inhibitAll = false)
    (hs : s.shutdown = false) : s.event = some .singleStep := by
  simp [event, runningEvent, htrap, hinhibit, hs]

/-! An exception leaves no single-step trap (60_exceptions.md R507). -/

theorem doubleFault_trap {s t : State} (hs : s.trap = false) (h : doubleFault s = .next t) : t.trap = false := by
  unfold doubleFault at h
  cases henter : enter 8 s.curIp false (some 0) s with
  | ok _ u =>
    rw [henter] at h
    cases h
    exact ((IsQuiet.enter 8 s.curIp false (some 0)).ok henter).trap hs
  | error e u =>
    rw [henter] at h
    cases e <;> cases h <;> rfl

theorem takeException_trap {v : Byte} {err : Option Word} {s t : State} (h : takeException v err s = .next t) :
    t.trap = false := by
  unfold takeException at h
  cases henter : enter v s.curIp false err s.endInstruction with
  | ok _ u =>
    rw [henter] at h
    cases h
    rfl
  | error e u =>
    rw [henter] at h
    cases e with
    | exc w err' => exact doubleFault_trap (s := { u with trap := false }) rfl h
    | shutdown =>
      cases h
      rfl
    | fault f => cases h
    | refused r => cases h

/-! What an event notes before its entry, the entry leaves. -/

theorem State.OnlyMemory.writeFrame (s : State) (g : SegReg) (sp : Word) (words : List Word) :
    s.OnlyMemory (s.writeFrame g sp words) := by
  induction words generalizing s sp with
  | nil => exact .refl s
  | cons v rest ih => exact (writeWord s _ v).trans (ih (s.storeVia g (sp - 2) .word v) (sp - 2))

/-- The states agree on all an entry in real mode reads. -/
structure State.SameForEntry (s t : State) : Prop where
  regs : t.regs = s.regs
  flags : t.flags = s.flags
  msw : t.msw = s.msw
  cs : t.cs = s.cs
  ss : t.ss = s.ss
  idtr : t.idtr = s.idtr
  mem : t.mem = s.mem
  board : t.board = s.board
  ticks : t.ticks = s.ticks

section
variable {s t : State} (hmem : t.mem = s.mem) (hmsw : t.msw = s.msw) (hboard : t.board = s.board)
include hmem hmsw hboard

theorem State.writeByte_mem_congr (a : Addr) (v : Byte) : (t.writeByte a v).mem = (s.writeByte a v).mem := by
  unfold writeByte isRam
  rw [physical_congr hmsw hboard, hboard, hmem]

theorem State.writeFrame_mem_congr (g : SegReg) (sp : Word) (words : List Word) :
    (t.writeFrame g sp words).mem = (s.writeFrame g sp words).mem := by
  induction words generalizing s t sp with
  | nil => exact hmem
  | cons v rest ih =>
    refine ih (s := s.storeVia g (sp - 2) .word v) (t := t.storeVia g (sp - 2) .word v) ?_ hmsw hboard (sp - 2)
    exact writeByte_mem_congr (writeByte_mem_congr hmem hmsw hboard _ _) hmsw hboard _ _

end

/-- An entry in real mode, by the memory it leaves and the destination it reads there. -/
def State.entered (s : State) (mem : List Host.Cell) (off sel : Word) : State :=
  ({ s.setReg SP (s.reg SP - 6) with mem := mem } : State).handlerAt s.flags.enterReal sel off

theorem State.realEntry_entered (s : State) (v : Byte) (rip : Word) :
    s.realEntry v rip = s.entered (s.framed rip).mem ((s.framed rip).readWord (s.vectorAddr v))
      ((s.framed rip).readWord (s.vectorAddr v + 2)) := by
  have hframed : s.framed rip =
      { s.setReg SP (s.reg SP - 6) with mem := (s.framed rip).mem, stale := (s.framed rip).stale } :=
    congrArg (fun t => t.setReg SP (s.reg SP - 6)) (OnlyMemory.writeFrame s s.ss (s.reg SP) _)
  rw [realEntry_eq]
  generalize (s.framed rip).readWord (s.vectorAddr v) = off
  generalize (s.framed rip).readWord (s.vectorAddr v + 2) = sel
  generalize s.framed rip = t at hframed ⊢
  exact congrArg (fun t => t.handlerAt s.flags.enterReal sel off) hframed

namespace State.SameForEntry

variable {s t : State} (h : s.SameForEntry t)
include h

theorem reg (r : Reg) : t.reg r = s.reg r := by rw [State.reg, State.reg, h.regs]

theorem framed_mem (rip : Word) : (t.framed rip).mem = (s.framed rip).mem := by
  simp only [framed, pushed, h.flags, h.cs, h.ss, h.reg]
  exact writeFrame_mem_congr h.mem h.msw h.board _ _ _

theorem framed_readWord (rip : Word) (a : Addr) : (t.framed rip).readWord a = (s.framed rip).readWord a := by
  have hbyte (a : Addr) : (t.framed rip).readByte a = (s.framed rip).readByte a :=
    readByte_congr (h.framed_mem rip) (by simp [framed, pushed, h.board]) (by simp [framed, pushed, h.msw])
      (by simp [framed, pushed, h.ticks]) a
  rw [readWord, readWord, hbyte, hbyte]

/-- The two entries leave the same memory and go to the same destination. -/
theorem realEntry_entered (v : Byte) (rip : Word) :
    ∃ mem off sel, s.realEntry v rip = s.entered mem off sel ∧ t.realEntry v rip = t.entered mem off sel := by
  refine ⟨_, _, _, s.realEntry_entered v rip, ?_⟩
  rw [t.realEntry_entered, h.framed_mem, h.framed_readWord, h.framed_readWord, vectorAddr, vectorAddr, h.idtr]

end State.SameForEntry

/-! The entries of the events. -/

theorem takeInterrupt_real {s : State} {v : Byte} (h : s.canEnterReal v) (rip : Word) (external : Bool) :
    takeInterrupt v rip external s =
      .next { s.realEntry v rip with trap := false, halted := false, shutdown := false } := by
  have hok : enter v rip false none s.endInstruction = .ok () (s.realEntry v rip) := by
    rw [enter_real (s := s.endInstruction) h.1, enterReal_eq (s := s.endInstruction) _ h.le_limit,
      enterVector_endInstruction h]
  rw [takeInterrupt, hok]

/-- An event may note beforehand what no entry depends on. -/
theorem takeInterrupt_noting {s : State} (u : State → State) (hsame : s.SameForEntry (u s))
    (hu : ∀ mem off sel, (u s).entered mem off sel = u (s.entered mem off sel)) {v : Byte} (h : (u s).canEnterReal v)
    (rip : Word) (external : Bool) :
    takeInterrupt v rip external (u s) =
      .next { u (s.realEntry v rip) with trap := false, halted := false, shutdown := false } := by
  obtain ⟨mem, off, sel, hs, hnoted⟩ := hsame.realEntry_entered v rip
  rw [takeInterrupt_real h, hnoted, hu, hs]

/-- The entry of an event counts it and makes the next instruction the current one. -/
def State.eventEntry (s : State) (v : Byte) : State :=
  { ({ s with ticks := s.ticks + 1 } : State).realEntry v s.ip with
    curIp := s.ip, trap := false, halted := false, shutdown := false }

section
variable {s : State} (hreset : s.pins.reset = false) (hpfx : s.pfx.len = 0)
include hreset hpfx

theorem step_singleStep_real (he : s.event = some .singleStep) (h : s.canEnterReal 1) :
    step s = .next (s.eventEntry 1) := by
  rw [step_event hreset hpfx he, State.eventEntry]
  have hentry := takeInterrupt_noting (s := { s with ticks := s.ticks + 1 }) (fun t => { t with curIp := s.ip })
    ⟨rfl, rfl, rfl, rfl, rfl, rfl, rfl, rfl, rfl⟩ (fun _ _ _ => rfl) h s.ip false
  generalize State.realEntry _ 1 s.ip = t at hentry ⊢
  exact hentry

theorem step_nmi_real (he : s.event = some .nmi) (h : s.canEnterReal 2) : step s =
    .next { s.eventEntry 2 with nmiPending := false, nmiInService := true, pereqInhibited := false } :=
  (step_event hreset hpfx he).trans <|
    takeInterrupt_noting (s := { s with ticks := s.ticks + 1 })
      (fun t => { t with curIp := s.ip, nmiPending := false, nmiInService := true, pereqInhibited := false })
      ⟨rfl, rfl, rfl, rfl, rfl, rfl, rfl, rfl, rfl⟩ (fun _ _ _ => rfl) h s.ip true

theorem step_overrun_real (he : s.event = some .overrun) (h : s.canEnterReal 9) :
    step s = .next { s.eventEntry 9 with overrunPending := false } :=
  (step_event hreset hpfx he).trans <|
    takeInterrupt_noting (s := { s with ticks := s.ticks + 1 })
      (fun t => { t with curIp := s.ip, overrunPending := false })
      ⟨rfl, rfl, rfl, rfl, rfl, rfl, rfl, rfl, rfl⟩ (fun _ _ _ => rfl) h s.ip true

theorem step_interrupt_real {v : Byte} (he : s.event = some (.interrupt v)) (h : s.canEnterReal v) : step s =
    .next { s.eventEntry v with pins := { s.pins with intr := none }, bus := .acknowledge v :: s.bus } :=
  (step_event hreset hpfx he).trans <|
    takeInterrupt_noting (s := { s with ticks := s.ticks + 1 })
      (fun t => { t with curIp := s.ip, pins := { s.pins with intr := none }, bus := .acknowledge v :: s.bus })
      ⟨rfl, rfl, rfl, rfl, rfl, rfl, rfl, rfl, rfl⟩ (fun _ _ _ => rfl) h s.ip true

end

/-- Settles O49: the events that wait are not due, and each of the four notes what it does before the one entry. -/
theorem hardwareInterrupts : Obligations.HardwareInterrupts := by
  refine ⟨fun s => ⟨fun hie v hv => ?_, fun hnmi => ⟨fun hv => ?_, fun hv => ?_, fun v hv => ?_⟩,
    fun hs => ⟨fun hv => ?_, fun v hv => ?_⟩, State.event_singleStep, fun htrap hv => ?_,
    fun v err t => takeException_trap⟩, fun s hreset hpfx => ⟨fun he h => ?_, fun he h => ?_, fun he h => ?_,
    fun v he h => ?_⟩⟩
  · obtain ⟨-, -, hie'⟩ := State.due_of_event hv
    exact absurd hie' (by simp [hie])
  · cases hnmi.symm.trans (State.due_of_event hv)
  · cases hnmi.symm.trans (State.due_of_event hv)
  · obtain ⟨-, hnmi', -⟩ := State.due_of_event hv
    exact absurd hnmi' (by simp [hnmi])
  · obtain ⟨hs', -⟩ := State.due_of_event hv
    exact absurd hs' (by simp [hs])
  · obtain ⟨hs', -, -⟩ := State.due_of_event hv
    exact absurd hs' (by simp [hs])
  · obtain ⟨-, htrap'⟩ := State.due_of_event hv
    exact absurd htrap' (by simp [htrap])
  · exact step_singleStep_real hreset hpfx he h
  · exact step_nmi_real hreset hpfx he h
  · exact step_overrun_real hreset hpfx he h
  · exact step_interrupt_real hreset hpfx he h

end Sys2Proof.Machine

/-! Interrupts and exceptions in protected mode through the IDT (60_exceptions.md R522, R526, R530, R531, R536, R537): the
tests of the gate and of its destination, and the entry at the same level. -/

namespace Sys2Proof.Machine

/-! The tests of the gate. -/

section
variable {s : State} {v : Byte} (hin : s.InIdt v) (rip : Word) (err : Option Word)
include hin

theorem enterProt_noGate (h : ¬(s.descriptorAt (s.gateAddr v)).IsIdtGate) (soft : Bool) :
    enterProt v rip soft err s = .error (generalProtection (idtError v)) s := by
  rw [enterProt_eq rip soft err hin, if_neg (mt (Descriptor.isIdtGate_iff _).mp h)]

/-- A gate more privileged than CPL is none for a software interrupt. -/
theorem enterProt_denied (h : ¬(s.descriptorAt (s.gateAddr v)).IsIdtGate ∨ (s.descriptorAt (s.gateAddr v)).dpl < s.cpl) :
    enterProt v rip true err s = .error (generalProtection (idtError v)) s := by
  by_cases hgate : (s.descriptorAt (s.gateAddr v)).IsIdtGate
  · have hdpl := h.resolve_left (not_not_intro hgate)
    rw [enterProt_eq rip true err hin, if_pos ((Descriptor.isIdtGate_iff _).mpr hgate), if_neg (by simpa using hdpl)]
  · exact enterProt_noGate hin rip err hgate true

variable {soft : Bool} (hsoft : soft = true → s.cpl ≤ (s.descriptorAt (s.gateAddr v)).dpl)
include hsoft

/-- A gate that may be used has its presence tested. -/
theorem enterProt_usable (h : (s.descriptorAt (s.gateAddr v)).IsIdtGate) :
    enterProt v rip soft err s =
      if (s.descriptorAt (s.gateAddr v)).present then
        if (s.descriptorAt (s.gateAddr v)).systemType == some 5 then
          enterTaskGate (s.descriptorAt (s.gateAddr v)) rip err s
        else enterGate (s.descriptorAt (s.gateAddr v)) rip err s
      else .error (notPresent (idtError v)) s := by
  have hallowed : (!soft || decide (s.cpl ≤ (s.descriptorAt (s.gateAddr v)).dpl)) = true := by
    cases soft
    · rfl
    · simpa using hsoft rfl
  rw [enterProt_eq rip soft err hin, if_pos ((Descriptor.isIdtGate_iff _).mpr h), if_pos hallowed]

theorem enterProt_absent (h : (s.descriptorAt (s.gateAddr v)).IsIdtGate)
    (hp : (s.descriptorAt (s.gateAddr v)).present = false) :
    enterProt v rip soft err s = .error (notPresent (idtError v)) s :=
  (enterProt_usable hin rip err hsoft h).trans (if_neg (by simp [hp]))

end

theorem State.HasGate.enterProt_eq {s : State} {v : Byte} (h : s.HasGate v)
    (hp : (s.descriptorAt (s.gateAddr v)).present = true) (rip : Word) {soft : Bool} (err : Option Word)
    (hsoft : soft = true → s.cpl ≤ (s.descriptorAt (s.gateAddr v)).dpl) :
    enterProt v rip soft err s = enterGate (s.descriptorAt (s.gateAddr v)) rip err s := by
  rw [enterProt_usable h.inIdt rip err hsoft h.isIdtGate, if_pos hp, if_neg (by simp [h.not_task])]

/-! The tests of the destination (60_exceptions.md R530). -/

section
variable {s : State} {g : Descriptor} (rip : Word) (err : Option Word)

theorem enterGate_null (h : g.gateSelector &&& 0xFFFC = 0) : enterGate g rip err s = .error (generalProtection 0) s :=
  bind_error (require_null h _)

theorem enterGate_outside (h : g.gateSelector &&& 0xFFFC ≠ 0) (ha : s.descriptorAddr g.gateSelector = none) :
    enterGate g rip err s = .error (generalProtection (errSel g.gateSelector)) s :=
  (bind_ok (require_notNull h _)).trans (bind_error (readDescriptor_outside ha _))

variable {a : Addr} (ha : s.Names g.gateSelector a)
include ha

theorem enterGate_wrong (h : (s.descriptorAt a).isCode = false ∨ s.cpl < (s.descriptorAt a).dpl) :
    enterGate g rip err s = .error (generalProtection (errSel g.gateSelector)) s := by
  have hwrong : ((s.descriptorAt a).isCode && decide ((s.descriptorAt a).dpl ≤ s.cpl)) = false := by
    rcases h with h | h
    · simp [h]
    · simp [h]
  exact (bind_ok (require_notNull ha.1 _)).trans
    ((bind_ok (readDescriptor_named ha _)).trans (bind_error (require_false hwrong)))

theorem enterGate_gone (hc : (s.descriptorAt a).isCode = true) (hd : (s.descriptorAt a).dpl ≤ s.cpl)
    (hp : (s.descriptorAt a).present = false) :
    enterGate g rip err s = .error (notPresent (errSel g.gateSelector)) s :=
  (bind_ok (require_notNull ha.1 _)).trans ((bind_ok (readDescriptor_named ha _)).trans
    ((bind_ok (require_true (by simp [hc, hd]))).trans (bind_error (require_false hp))))

end

/-! What an entry that fails comes to: a software interrupt finds it in `s`, an exception where the prefixes are used
up. -/

theorem entryFails_of_absent {s : State} {v : Byte} (hpe : s.msw.pe = true) (hin : s.InIdt v)
    (h : (s.descriptorAt (s.gateAddr v)).IsIdtGate) (hp : (s.descriptorAt (s.gateAddr v)).present = false) :
    s.EntryFails v 11 (idtError v) :=
  ⟨fun _ hs hi hl => raises_of_enterProt hpe hs hi (by decide) (enterProt_absent hin s.ip none (fun _ => hl) h hp),
    fun err => doubleFaults_of_enterProt hpe
      (enterProt_absent (s := s.endInstruction) (soft := false) hin s.curIp err (by simp) h hp)⟩

theorem entryFails_of_enterGate {s : State} {v x : Byte} {e : Word} (hpe : s.msw.pe = true) (h : s.HasGate v)
    (hp : (s.descriptorAt (s.gateAddr v)).present = true)
    (hs : enterGate (s.descriptorAt (s.gateAddr v)) s.ip none s = .error (.exc x (some e)) s)
    (ht : ∀ err, enterGate (s.descriptorAt (s.gateAddr v)) s.curIp err s.endInstruction =
      .error (.exc x (some e)) s.endInstruction) (hx : x ≠ 16 := by decide) : s.EntryFails v x e := by
  refine ⟨fun i hr hi hl => ?_, fun err => ?_⟩
  · exact raises_of_enterProt hpe hr hi hx ((h.enterProt_eq hp s.ip none fun _ => hl).trans hs)
  · have hgate : s.endInstruction.HasGate v := h
    exact doubleFaults_of_enterProt hpe ((hgate.enterProt_eq hp s.curIp err (soft := false) (by simp)).trans (ht err))

/-! The entry at the same level. -/

/-- Words pushed, and a code segment entered at the level of before. -/
def State.enteredSame (s : State) (c : Descriptor) (csel eoff : Word) (words : List Word) : State :=
  ((s.pushed words).loadFrom .cs (withRpl csel s.cpl) c).transfer eoff

theorem State.enteredSame_flags (s : State) (c : Descriptor) (csel eoff : Word) (words : List Word) :
    (s.enteredSame c csel eoff words).flags = s.flags := by simp [enteredSame, pushed, loadFrom]

theorem State.endInstruction_enteredSame (s : State) (c : Descriptor) (csel eoff : Word) (words : List Word) :
    (s.enteredSame c csel eoff words).endInstruction = (s.pushed words).inCode c csel eoff s.cpl :=
  endInstruction_inCode _ c csel eoff s.cpl

theorem State.enteredSame_endInstruction (s : State) (c : Descriptor) (csel eoff : Word) (words : List Word) :
    s.endInstruction.enteredSame c csel eoff words = (s.pushed words).inCode c csel eoff s.cpl := by
  rw [enteredSame, pushed_endInstruction]
  exact (s.pushed words).loadFrom_transfer_endInstruction c csel eoff s.cpl

/-- The gate of a vector is present and leads to a conforming code segment, or to one of the same level. -/
structure State.LeadsAcross (s : State) (v : Byte) (a : Addr) : Prop where
  gate : s.HasGate v
  present : (s.descriptorAt (s.gateAddr v)).present = true
  code : s.NamesCode (s.descriptorAt (s.gateAddr v)).gateSelector a
  allowed : (s.descriptorAt a).dpl ≤ s.cpl
  same : (s.descriptorAt a).isConforming = true ∨ (s.descriptorAt a).dpl = s.cpl

namespace State.LeadsAcross

theorem endInstruction {s : State} {v : Byte} {a : Addr} (h : s.LeadsAcross v a) :
    s.endInstruction.LeadsAcross v a := ⟨h.gate, h.present, h.code, h.allowed, h.same⟩

section
variable {s : State} {v : Byte} {a : Addr} (h : s.LeadsAcross v a) (rip : Word) {soft : Bool} (err : Option Word)
  (hsoft : soft = true → s.cpl ≤ (s.descriptorAt (s.gateAddr v)).dpl)
include h hsoft

/-- The entry, then the flags. -/
theorem enterProt_eq :
    enterProt v rip soft err s =
      (enterSame (s.descriptorAt a) (s.descriptorAt (s.gateAddr v)).gateSelector (s.descriptorAt (s.gateAddr v)).limit
        ([s.flags.image, s.cs.sel, rip] ++ err.toList) >>= fun _ =>
          update fun t => { t with
            flags := t.flags.enterGate ((s.descriptorAt (s.gateAddr v)).systemType == some 7) }) s := by
  have hsame : ((s.descriptorAt a).isConforming || (s.descriptorAt a).dpl == s.cpl) = true := by simpa using h.same
  rw [h.gate.enterProt_eq h.present rip err hsoft, enterGate_eq rip err h.code h.allowed, hsame]
  rfl

theorem enterProt_noRoom {e : Stop}
    (hroom : frameStop s s.ss (s.reg SP) ([s.flags.image, s.cs.sel, rip] ++ err.toList).length = some e) :
    enterProt v rip soft err s = .error e s :=
  (h.enterProt_eq rip err hsoft).trans (bind_error (enterSame_noRoom hroom))

variable (hroom : frameStop s s.ss (s.reg SP) ([s.flags.image, s.cs.sel, rip] ++ err.toList).length = none)
include hroom

theorem enterProt_beyond (hoff : (s.descriptorAt a).limit < (s.descriptorAt (s.gateAddr v)).limit) :
    enterProt v rip soft err s = .error (generalProtection 0) s := by
  refine (h.enterProt_eq rip err hsoft).trans (bind_error ?_)
  rw [enterSame_eq, hroom]
  exact if_neg (BitVec.not_le.mpr hoff)

theorem enterProt_ok (hoff : (s.descriptorAt (s.gateAddr v)).limit ≤ (s.descriptorAt a).limit) :
    enterProt v rip soft err s = .ok () { s.enteredSame (s.descriptorAt a)
      (s.descriptorAt (s.gateAddr v)).gateSelector (s.descriptorAt (s.gateAddr v)).limit
        ([s.flags.image, s.cs.sel, rip] ++ err.toList) with flags := s.gateFlags v } := by
  have hentry := enterSame_ok (sel := (s.descriptorAt (s.gateAddr v)).gateSelector) hroom hoff
  rw [← enteredSame] at hentry
  refine (h.enterProt_eq rip err hsoft).trans ((bind_ok hentry).trans ?_)
  rw [update_apply, enteredSame_flags]
  rfl

end

section
variable {s : State} {v : Byte} {a : Addr} (h : s.LeadsAcross v a) (hpe : s.msw.pe = true)
include h hpe

/-- A software interrupt at the same level. -/
theorem exec_eq {i : Instr} (hs : s.Ready) (hi : IsSoftwareInterrupt i s v)
    (hl : s.cpl ≤ (s.descriptorAt (s.gateAddr v)).dpl) (hroom : frameStop s s.ss (s.reg SP) 3 = none)
    (hoff : (s.descriptorAt (s.gateAddr v)).limit ≤ (s.descriptorAt a).limit) :
    exec i s = .next { (s.pushed [s.flags.image, s.cs.sel, s.ip]).inCode (s.descriptorAt a)
      (s.descriptorAt (s.gateAddr v)).gateSelector (s.descriptorAt (s.gateAddr v)).limit s.cpl with
        flags := s.gateFlags v } := by
  rw [hi.exec_ok hpe hs (h.enterProt_ok s.ip none (fun _ => hl) hroom hoff), endInstruction_withFlags,
    endInstruction_enteredSame]
  rfl

/-- An exception at the same level. -/
theorem takeException_eq (err : Option Word)
    (hroom : frameStop s s.ss (s.reg SP) ([s.flags.image, s.cs.sel, s.curIp] ++ err.toList).length = none)
    (hoff : (s.descriptorAt (s.gateAddr v)).limit ≤ (s.descriptorAt a).limit) :
    takeException v err s = .next { (s.pushed ([s.flags.image, s.cs.sel, s.curIp] ++ err.toList)).inCode
      (s.descriptorAt a) (s.descriptorAt (s.gateAddr v)).gateSelector (s.descriptorAt (s.gateAddr v)).limit s.cpl with
        flags := s.gateFlags v, trap := false } := by
  rw [← frameStop_endInstruction] at hroom
  have hok := h.endInstruction.enterProt_ok s.curIp err (soft := false) (by simp) hroom hoff
  simp only [enteredSame_endInstruction, descriptorAt_endInstruction, gateAddr_endInstruction,
    gateFlags_endInstruction, endInstruction_flags, endInstruction_cs] at hok
  exact takeException_ok ((enter_protected (s := s.endInstruction) hpe _ _ _ _).trans hok)

end

end State.LeadsAcross

/-- Settles O46: the tests of the gate, of its destination and of the stack come one after the other; a software interrupt
raises the exception of the first that fails, an exception becomes a double fault. -/
theorem softwareInterruptProtected : Obligations.SoftwareInterruptProtected := by
  intro s v hpe e g csel named
  have he : idtError v = e := idtError_eq v
  rw [← he]
  refine ⟨fun i hs hi => ⟨fun hlimit => ?_, fun hin hgate => ?_⟩, fun hin => ⟨fun hgate err => ?_, ?_⟩,
    fun hgate hp => ⟨fun hnull => ?_, fun hnamed haddr => ?_, fun a ha => ?_⟩⟩
  · exact raises_of_enterProt hpe hs hi (by decide) (enterProt_beyond s.ip true none hlimit)
  · exact raises_of_enterProt hpe hs hi (by decide) (enterProt_denied hin s.ip none hgate)
  · exact doubleFaults_of_enterProt hpe (enterProt_noGate (s := s.endInstruction) hin s.curIp err hgate false)
  · exact entryFails_of_absent hpe hin
  · exact entryFails_of_enterGate hpe hgate hp (enterGate_null s.ip none hnull) fun err => enterGate_null s.curIp err hnull
  · exact entryFails_of_enterGate hpe hgate hp (enterGate_outside s.ip none hnamed haddr)
      fun err => enterGate_outside (s := s.endInstruction) s.curIp err hnamed haddr
  refine ⟨fun hwrong => ?_, fun hc hd hgone => ?_, fun hc hd hpresent hsame => ?_⟩
  · exact entryFails_of_enterGate hpe hgate hp (enterGate_wrong s.ip none ha hwrong)
      fun err => enterGate_wrong (s := s.endInstruction) s.curIp err ha hwrong
  · exact entryFails_of_enterGate hpe hgate hp (enterGate_gone s.ip none ha hc hd hgone)
      fun err => enterGate_gone (s := s.endInstruction) s.curIp err ha hc hd hgone
  have hacross : s.LeadsAcross v a := ⟨hgate, hp, ⟨ha, hc, hpresent⟩, hd, hsame⟩
  refine ⟨fun i hs hi hl => ⟨fun x y hroom => ?_, fun hroom => ⟨fun hoff => ?_, fun hoff => ⟨?_, ?_, ?_⟩⟩⟩,
    fun err => ⟨fun x y hroom => ?_, fun hroom => ⟨fun hoff => ?_, fun hoff => ⟨?_, ?_, ?_⟩⟩⟩⟩
  · exact raises_of_enterProt hpe hs hi (frameStop_vector hroom) (hacross.enterProt_noRoom s.ip none (fun _ => hl) hroom)
  · exact raises_of_enterProt hpe hs hi (by decide) (hacross.enterProt_beyond s.ip none (fun _ => hl) hroom hoff)
  · exact hacross.exec_eq hpe hs hi hl hroom hoff
  · exact s.sameRegs_pushed_inCode _ _ csel g.limit s.cpl
  · exact s.sameMemory_pushed_inCode [s.flags.image, s.cs.sel, s.ip] (s.descriptorAt a) csel g.limit s.cpl
  · rw [← frameStop_endInstruction] at hroom
    exact doubleFaults_of_enterProt hpe (hacross.endInstruction.enterProt_noRoom s.curIp err (by simp) hroom)
  · rw [← frameStop_endInstruction] at hroom
    exact doubleFaults_of_enterProt hpe (hacross.endInstruction.enterProt_beyond s.curIp err (by simp) hroom hoff)
  · exact hacross.takeException_eq hpe err hroom hoff
  · exact s.sameRegs_pushed_inCode _ _ csel g.limit s.cpl
  · exact s.sameMemory_pushed_inCode _ (s.descriptorAt a) csel g.limit s.cpl

end Sys2Proof.Machine
